-- ==== Sys2Proof/Word.lean ====
section
/-! DEFINITION. The words of the block: 64-bit data words, the 8-bit command word, and the ordered pair of
data words that is the generator state. -/

namespace Sys2Proof

/-- A data word: every operand, result and state word (R5). Bit 0 is the least significant (R8).
`+` and `*` of this type wrap modulo 2^64, which is the block's own addition and multiplication (R84, R85). -/
abbrev Word := BitVec 64

/-- One byte of the state's external form (R42). -/
abbrev Byte := BitVec 8

/-- A command word, `CMD` (R57). -/
abbrev Cmd := BitVec 8

/-- The generator state: the ordered pair (s0, s1) of R20. -/
structure Gen where
  s0 : Word
  s1 : Word
deriving DecidableEq, Repr

end Sys2Proof
end

