-- ==== Sys2Proof/Syntax.lean ====
section
/-! DEFINITION. The seven commands, one constructor for each row of the opcode table. -/

namespace Sys2Proof

/-- A command with the operands it uses (R58, R59). Ports a command ignores are no part of it (R60, log entry 16). -/
inductive Instr where
  /-- SEED v (R101). -/
  | seed (v : Word)
  /-- NEXT (R115). -/
  | next
  /-- JUMP32 (R131). -/
  | jump32
  /-- JUMP64 (R133). -/
  | jump64
  /-- JUMP96 (R132). -/
  | jump96
  /-- LOAD a, b (R105). -/
  | load (a b : Word)
  /-- READ (R106). -/
  | read
deriving DecidableEq, Repr

end Sys2Proof
end

