-- ==== Sys2Proof/WellFormed.lean ====
section
/-! DEFINITION. Requests as the host sends them, and the checks on them: a request is legal when its reserved
field is zero and its OP field is not the reserved one (R63). Every term of `Instr` is well formed: its operands
are whole words (R59). -/

namespace Sys2Proof

/-- A request on the command interface (R55). -/
structure Request where
  cmd  : Cmd
  din0 : Word
  din1 : Word
deriving DecidableEq, Repr

/-- The `RSV` field, `CMD[7:3]` (R57). -/
def Request.rsv (r : Request) : BitVec 5 := r.cmd.extractLsb' 3 5

/-- The `OP` field, `CMD[2:0]` (R57). -/
def Request.op (r : Request) : BitVec 3 := r.cmd.extractLsb' 0 3

/-- The first check of R63: the reserved field is zero. -/
def Request.rsvIsZero (r : Request) : Bool := r.rsv == 0

/-- The second check of R63: `OP` is not the reserved `000`. -/
def Request.opIsNamed (r : Request) : Bool := r.op != 0

/-- A request whose CMD names a command (R63). -/
def Request.wellFormed (r : Request) : Bool := r.rsvIsZero && r.opIsNamed

/-- The OP code of each command (R58). -/
def Instr.opCode : Instr → BitVec 3
  | .seed _ => 0b001
  | .next => 0b010
  | .jump32 => 0b011
  | .jump64 => 0b100
  | .jump96 => 0b101
  | .load _ _ => 0b110
  | .read => 0b111

/-- A command is well formed when its OP code is not the reserved `000`: its operands, whole words, are
unrestricted (R59). -/
def Instr.wellFormed (i : Instr) : Bool := i.opCode != 0

/-- A number an assembler line may give for a data port: 0 to 2^64 − 1 (R68). -/
def wordNumber (n : Nat) : Bool := n < 2 ^ 64

/-- A number the raw assembler form may give for CMD: one byte (R57, R68). -/
def byteNumber (n : Nat) : Bool := n < 2 ^ 8

end Sys2Proof
end

