-- ==== Sys2Proof/Machine/Operands.lean ====
section
/-! DEFINITION. The operand forms: which data port gives which operand (R59), and the request as one number,
as the opcode table numbers its bits. A command takes its operands unchanged from the ports (R59). -/

namespace Sys2Proof

/-- SEED's operand: DIN0 (R59). -/
def Request.seedValue (r : Request) : Word := r.din0

/-- LOAD's new s0: DIN0 (R59). -/
def Request.newS0 (r : Request) : Word := r.din0

/-- LOAD's new s1: DIN1 (R59). -/
def Request.newS1 (r : Request) : Word := r.din1

/-- The request whose bits are the low `nbits` bits of `w`: CMD in bits 7..0, DIN0 in bits 71..8, DIN1 in bits
135..72, all higher bits zero. The three fields always travel together, 8 + 64 + 64 bits (R57); that they follow
one another in this order is DESIGN CHOICE, log entry 15. -/
def Request.ofBits (nbits w : Nat) : Request :=
  let bits := w % 2 ^ nbits
  { cmd := BitVec.ofNat 8 bits
    din0 := BitVec.ofNat 64 (bits / 2 ^ 8)
    din1 := BitVec.ofNat 64 (bits / 2 ^ 72) }

/-- The 136 bits of a request as one number, laid out as `Request.ofBits` reads them. -/
def Request.toBits (r : Request) : Nat :=
  r.cmd.toNat + 2 ^ 8 * (r.din0.toNat + 2 ^ 64 * r.din1.toNat)

end Sys2Proof
end

