-- ==== Sys2Proof/Decode.lean ====
section
/-! DEFINITION. Decoding (R66), total on every request, and the encoder from the same table (R57, R58, R68). -/

namespace Sys2Proof

/-- What a request decodes to: `Op | Illegal` (R66). -/
inductive Decoded where
  /-- The request names this command. -/
  | op (i : Instr)
  /-- The request names no command (R63). -/
  | illegal
deriving DecidableEq, Repr

/-- `Decode` of R66, with the operands of R59. Ignored ports are dropped (R60). -/
def decode (r : Request) : Decoded :=
  if r.rsv ≠ 0 then .illegal
  else if r.op = 0b000 then .illegal
  else if r.op = 0b001 then .op (.seed r.seedValue)
  else if r.op = 0b010 then .op .next
  else if r.op = 0b011 then .op .jump32
  else if r.op = 0b100 then .op .jump64
  else if r.op = 0b101 then .op .jump96
  else if r.op = 0b110 then .op (.load r.newS0 r.newS1)
  else .op .read

/-- The command word of an OP code: RSV = 00000 above it (R57). -/
def cmdOf (i : Instr) : Cmd := (0 : BitVec 5) ++ i.opCode

/-- The request an assembler writes for a command: ignored ports are driven to 0 (R58, R59, R68). -/
def encode (i : Instr) : Request :=
  match i with
  | .seed v => { cmd := cmdOf (.seed v), din0 := v, din1 := 0 }
  | .next => { cmd := cmdOf .next, din0 := 0, din1 := 0 }
  | .jump32 => { cmd := cmdOf .jump32, din0 := 0, din1 := 0 }
  | .jump64 => { cmd := cmdOf .jump64, din0 := 0, din1 := 0 }
  | .jump96 => { cmd := cmdOf .jump96, din0 := 0, din1 := 0 }
  | .load a b => { cmd := cmdOf (.load a b), din0 := a, din1 := b }
  | .read => { cmd := cmdOf .read, din0 := 0, din1 := 0 }

/-- The command itself, when there is one. -/
def Decoded.instr? : Decoded → Option Instr
  | .op i => some i
  | .illegal => none

/-- The command whose bits are `w`, numbered as the opcode table numbers them, all bits above `nbits` zero. -/
def decodeTableWord (nbits w : Nat) : Option Instr := (decode (Request.ofBits nbits w)).instr?

end Sys2Proof
end

