-- ==== Sys2Proof/Machine/Constants.lean ====
section
/-! DEFINITION. The block's fixed constants (R6), the constant store of the jump engine among them (R28).
None of them is configurable, and nothing reads or writes them but the datapath. -/

namespace Sys2Proof.Machine

/-- `LCG_A` (R6, R100). -/
def lcgA : Word := 0x5851F42D4C957F2D

/-- `LCG_C` (R6, R100). -/
def lcgC : Word := 0x14057B7EF767814F

/-- `MUL_K` (R6, R88). -/
def mulK : Word := 0xD2B74407B1CE6E93

/-- `ROT_R` (R6, R81). -/
def rotR : Nat := 29

/-- `SHL_A` (R6, R87). -/
def shlA : Nat := 2

/-- `SAR_B` (R6, R83). -/
def sarB : Nat := 19

/-- `J32_W0` (R6, R28, R131). -/
def j32W0 : Word := 0x8003A4B944F009D0

/-- `J32_W1` (R6, R28, R131). -/
def j32W1 : Word := 0x7FFE925EEBD5615B

/-- `J96_W0` (R6, R28, R132). -/
def j96W0 : Word := 0x8003A4B944F009D1

/-- `J96_W1` (R6, R28, R132). -/
def j96W1 : Word := 0x7FFE925EEBD5615B

/-- `J64_W0` (R6): JUMP64 is computed in closed form and does not read it (R28, R133). -/
def j64W0 : Word := 0x0000000000000003

/-- `J64_W1` (R6): see `j64W0`. -/
def j64W1 : Word := 0x0000000000000000

end Sys2Proof.Machine
end

