-- ==== Sys2Proof/Machine/Datapath.lean ====
section
/-! DEFINITION. The datapath's pure functions: shifts and rotate, the state transition T, the output scrambler O,
the seeding mixer, and the jump-polynomial engine. None reads or writes the machine's state. -/

namespace Sys2Proof

/-- The state (0, 0) (R24). -/
def Gen.zero : Gen := { s0 := 0, s1 := 0 }

/-- XOR of two states is component-wise (R86). -/
def Gen.xor (a b : Gen) : Gen := { s0 := a.s0 ^^^ b.s0, s1 := a.s1 ^^^ b.s1 }

end Sys2Proof

namespace Sys2Proof.Machine

/-- Logical left shift, zero fill (R82), for 0 ≤ n ≤ 63 (log entry 18). -/
def shl64 (x : Word) (n : Nat) : Word := x <<< n

/-- Logical right shift, zero fill (R82), for 0 ≤ n ≤ 63 (log entry 18). -/
def lsr64 (x : Word) (n : Nat) : Word := x >>> n

/-- Arithmetic right shift: bit 63 fills (R83), for 0 ≤ n ≤ 63 (log entry 18). -/
def sar64 (x : Word) (n : Nat) : Word := x.sshiftRight n

/-- Rotate left (R80), for 0 ≤ k ≤ 63 (log entry 18). -/
def rotl64 (x : Word) (k : Nat) : Word := shl64 x k ||| lsr64 x ((64 - k) % 64)

/-- The state transition T (R87). -/
def transition (g : Gen) : Gen :=
  { s0 := g.s1, s1 := shl64 g.s0 shlA ^^^ sar64 g.s0 sarB ^^^ g.s1 }

/-- T^j: j applications of T (R12). -/
def transitionPow : Nat → Gen → Gen
  | 0, g => g
  | j + 1, g => transition (transitionPow j g)

/-- The output scrambler O, `rotl64(s0 * MUL_K, 29) + s1` (R88); see `lcg` on the order of the factors. -/
def output (g : Gen) : Word := rotl64 (mulK * g.s0) rotR + g.s1

/-- One step of the seeding mixer, `v * LCG_A + LCG_C` (R100). The constants stand on the left here and in `output`,
which changes no value (both operations commute), so that the kernel never counts up to one when it compares states. -/
def lcg (v : Word) : Word := lcgC + lcgA * v

/-- The state SEED makes from a seed (R101). -/
def seedState (v : Word) : Gen := { s0 := lcg v, s1 := lcg (lcg v) }

/-- The jump engine's working values (R29): the accumulator (t0, t1) and the running state (r0, r1). -/
structure Engine where
  acc : Gen
  run : Gen
deriving DecidableEq, Repr

/-- One iteration of the engine (R126): add the running state if bit `b` of `w` is set, then advance it. -/
def engineBit (w : Word) (e : Engine) (b : Nat) : Engine :=
  { acc := if w.getLsbD b then Gen.xor e.acc e.run else e.acc
    run := transition e.run }

/-- The 64 iterations for one word of the polynomial, bit 0 first (R125, R126). -/
def engineWord (w : Word) (e : Engine) : Engine := (List.range 64).foldl (engineBit w) e

/-- `JumpPoly(S, w0, w1)` (R126): always 128 iterations; the final running state is discarded. -/
def jumpPoly (g : Gen) (w0 w1 : Word) : Gen :=
  (engineWord w1 (engineWord w0 { acc := Gen.zero, run := g })).acc

/-- The closed form of JUMP64 (R133). -/
def jumpClosed64 (g : Gen) : Gen :=
  { s0 := g.s0 ^^^ g.s1, s1 := shl64 g.s0 shlA ^^^ sar64 g.s0 sarB }

end Sys2Proof.Machine
end

