-- ==== Sys2Proof/Config.lean ====
section
/-! DEFINITION. What the spec leaves open: its three named parameters (R7) and the contents of the registers
after a reset (R23). All are opaque, so that every theorem holds whatever they are. -/

namespace Sys2Proof

/-- The two byte orders a host may store a word in (R7, R42). -/
inductive ByteOrder where
  | little
  | big
deriving DecidableEq, Repr, Inhabited

/-- `SERIAL_BYTE_ORDER` (R7, R42): the byte order within a word of a state stored outside the block.
Free value, log entry 14. -/
opaque Config.serialByteOrder : ByteOrder

/-- One less than `N_INSTANCES` (R7), which is at least 1. Free value, log entry 2. -/
opaque Config.otherBlocks : Nat

/-- `N_INSTANCES` (R7, R34). -/
def Config.nBlocks : Nat := Config.otherBlocks + 1

/-- `LATENCY(op)` (R7), by the OP field of the command. No rule depends on it (R183), and nothing in the model
reads it. Free value, log entry 13. -/
opaque Config.latency : BitVec 3 → Nat

/-- What the flip-flops of s0 hold in instance `block` after its reset number `resets` (R23: not constrained).
Free value, log entry 1. -/
opaque Config.flopS0 (block resets : Nat) : Word

/-- What the flip-flops of s1 hold in instance `block` after its reset number `resets` (R23: not constrained).
Free value, log entry 1. -/
opaque Config.flopS1 (block resets : Nat) : Word

end Sys2Proof
end

