-- ==== Sys2Proof/Machine/State.lean ====
section
/-! DEFINITION. The machine's state: every instance of the block with its registers and the record of its run,
the interface the host drives, and what the host has still to send; why a step can stop; the state after reset. -/

namespace Sys2Proof.Machine

/-- The two fault kinds of the block (R151). They are no stops of the model: a faulted command is answered and the
block goes on (R155, log entry 11). -/
inductive FaultKind where
  /-- Code 1: CMD names no command (R152). -/
  | illegalCommand
  /-- Code 2: the command reads the state while `init = 0` (R153). -/
  | uninitialised
deriving DecidableEq, Repr

/-- One entry of `faults`: the kind, and the CMD byte of the faulting command (R32, R151). -/
structure FaultRecord where
  kind : FaultKind
  info : Cmd
deriving DecidableEq, Repr

/-- The response to a command (R55, R61): `err` is the ERR bit. -/
structure Response where
  err   : Bool
  dout0 : Word
  dout1 : Word
deriving DecidableEq, Repr

/-- One instance of the block (R34). `gen` and `init` are its registers (R20, R22). `faults` (R32), `responses`
(R184) and `index` (R25) are the record of its current run, oldest entry first. `resets` is the model's own counter:
how many resets this instance has had, which the free contents of the registers depend on (log entry 1). -/
structure Block where
  gen       : Gen
  init      : Bool
  faults    : List FaultRecord
  responses : List Response
  index     : Nat
  resets    : Nat
deriving DecidableEq, Repr

/-- One interaction of the host with the instance numbered `block` (R182). -/
inductive Input where
  /-- A request on the command interface (R55). -/
  | command (block : Nat) (req : Request)
  /-- RESET, between commands (R175). -/
  | reset (block : Nat)
  /-- RESET while `req` is in progress (R176). -/
  | resetDuring (block : Nat) (req : Request)
  /-- Loss of power of the instance (R166). -/
  | powerLoss (block : Nat)
  /-- Two requests in flight at once, from one host or from two (R51, R56). -/
  | overlap (block : Nat) (first second : Request)
deriving DecidableEq, Repr

/-- The machine: its instances (R34), the interface the host drives (R164, log entry 4), and the host's list of
what it will still send, first one first (R25, log entry 3). -/
structure State where
  blocks : List Block
  port   : Nat
  inputs : List Input
deriving DecidableEq, Repr

/-- Why the model stops with a fault. -/
inductive Fault where
  /-- Raised by `State.onPort`, when the host drives an interface that no instance has. Safe: there is no such
  interface to drive (R34, log entry 10). -/
  | noSuchBlock
deriving DecidableEq, Repr

/-- Why the model gives no meaning. -/
inductive Refusal where
  /-- Raised by an arm of `exec` that has no meaning yet; no arm raises it now. Safe. -/
  | notModelled (mnemonic : String)
  /-- Raised by `State.deliver` on a second request to an instance that has one in progress: "unsafe and undefined",
  so the model has no step for it (R51, log entry 9). Safe. -/
  | concurrentRequest
deriving DecidableEq, Repr

/-- Instance number `block` right after its reset number `resets` (R33, R175): `init` is 0, the registers hold what
the flip-flops hold (free values, log entry 1), and a new run starts with nothing recorded (R176). -/
def Block.atReset (block resets : Nat) : Block :=
  { gen := { s0 := Config.flopS0 block resets, s1 := Config.flopS1 block resets }
    init := false
    faults := []
    responses := []
    index := 0
    resets := resets }

/-- The `n` instances numbered from `first` on, each in its reset state (R164). -/
def Block.allAtReset (first : Nat) : Nat → List Block
  | 0 => []
  | n + 1 => Block.atReset first 0 :: Block.allAtReset (first + 1) n

/-- The machine of `n` instances right after reset: it waits for its first command (R177). -/
def State.resetOf (n : Nat) : State :=
  { blocks := Block.allAtReset 0 n, port := 0, inputs := [] }

/-- The machine right after reset, with the `N_INSTANCES` of the platform (R7, R33). -/
def State.reset : State := State.resetOf Config.nBlocks

end Sys2Proof.Machine
end

