-- ==== Sys2Proof/Machine/Flags.lean ====
section
/-! DEFINITION. There are no flags and no condition codes (R26). The only error indication is the ERR bit of each
response; these are the responses of R61, ERR and result fields together. -/

namespace Sys2Proof.Machine

/-- A completed command that returns no data: SEED, LOAD and the jumps (R61, R139). -/
def Response.done : Response := { err := false, dout0 := 0, dout1 := 0 }

/-- A completed NEXT: the output on DOUT0 (R61). -/
def Response.value (out : Word) : Response := { err := false, dout0 := out, dout1 := 0 }

/-- A completed READ: s0 on DOUT0, s1 on DOUT1 (R35, R61). -/
def Response.pair (g : Gen) : Response := { err := false, dout0 := g.s0, dout1 := g.s1 }

/-- A faulted command: ERR set, the result fields zero (R61, R155). -/
def Response.faulted : Response := { err := true, dout0 := 0, dout1 := 0 }

/-- The code of a fault kind in the model's record; the response does not carry it (R151). -/
def FaultKind.code : FaultKind → Nat
  | .illegalCommand => 1
  | .uninitialised => 2

end Sys2Proof.Machine
end

