-- ==== Sys2Proof/Machine/Ops.lean ====
section
/-! DEFINITION. The named operations on an instance and on the machine: driving a response, writing the state pair,
raising a fault, reading the state, resetting, and acting on the instance whose interface is driven. -/

namespace Sys2Proof.Machine

/-- `respond(err, d0, d1)` (R11, R61): the one response of a command, which ends it; the host's index goes on to the
next command (R25, log entry 19). -/
def Block.respond (r : Response) (b : Block) : Block :=
  { b with responses := b.responses ++ [r], index := b.index + 1 }

/-- `state <- (a, b)` (R11): both words in one action. -/
def Block.write (g : Gen) (b : Block) : Block := { b with gen := g }

/-- `state <- (a, b); init <- 1`, the assignment of SEED and LOAD (R22, R101, R105). -/
def Block.assign (g : Gen) (b : Block) : Block := { b with gen := g, init := true }

/-- `raise Fault(kind, info)` (R155, R156): the pair and `init` keep their values, the fault is recorded, and the
response is ERR = 1 with zeros. -/
def Block.raiseFault (kind : FaultKind) (info : Cmd) (b : Block) : Block :=
  Block.respond Response.faulted { b with faults := b.faults ++ [{ kind := kind, info := info }] }

/-- The body of a command that reads the state: it runs when `init = 1`, and otherwise the command faults (R67, R153). -/
def Block.reading (cmd : Cmd) (body : Gen → Block → Block) (b : Block) : Block :=
  if b.init then body b.gen b else b.raiseFault .uninitialised cmd

/-- RESET of instance number `block` (R175): `init` is 0, the pair holds no value, and a new run starts (R176). -/
def Block.restart (block : Nat) (b : Block) : Block := Block.atReset block (b.resets + 1)

/-- What the response ports show: the last response of the run; before the first response they have no value
(R33, log entry 6). -/
def Block.lastResponse (b : Block) : Option Response := b.responses.getLast?

/-- The state pair as the rules may speak of it: while `init = 0` there is no value (R23). -/
def Block.value (b : Block) : Option Gen := if b.init then some b.gen else none

/-- The instance whose interface is driven takes the action `f`; no other instance is touched (R34). An interface
that no instance has is a fault (log entry 10). -/
def State.onPort (f : Block → Block) (s : State) : Host.Outcome State Fault Refusal :=
  match s.blocks[s.port]? with
  | some b => .next { s with blocks := s.blocks.set s.port (f b) }
  | none => .fault .noSuchBlock

/-- The host drives the interface of instance number `block` (R164). -/
def State.drive (block : Nat) (s : State) : State := { s with port := block }

/-- The host's next interaction is taken off its list (R25, R49). -/
def State.withInputs (rest : List Input) (s : State) : State := { s with inputs := rest }

end Sys2Proof.Machine
end

