-- ==== Sys2Proof/Machine/Access.lean ====
section
/-! DEFINITION. The state-access family: LOAD and READ. -/

namespace Sys2Proof.Machine

/-- LOAD a, b (R105): any pair is accepted, (0, 0) among them (R24, R158), and there is no exception. -/
def execLoad (a b : Word) (s : State) : Host.Outcome State Fault Refusal :=
  s.onPort (fun blk => (blk.assign { s0 := a, s1 := b }).respond Response.done)

/-- READ (R106): the pair in the response, nothing written. -/
def execRead (s : State) : Host.Outcome State Fault Refusal :=
  s.onPort (Block.reading (cmdOf .read) (fun g b => b.respond (Response.pair g)))

end Sys2Proof.Machine
end

