-- ==== Sys2Proof/Machine/Jump.lean ====
section
/-! DEFINITION. The jump family: JUMP32, JUMP64, JUMP96. Each is one indivisible transition (R129) and returns no
data (R139). -/

namespace Sys2Proof.Machine

/-- JUMP32 (R131): the engine with the store's first polynomial. -/
def execJump32 (s : State) : Host.Outcome State Fault Refusal :=
  s.onPort (Block.reading (cmdOf .jump32) (fun g b =>
    (b.write (jumpPoly g j32W0 j32W1)).respond Response.done))

/-- JUMP64 (R133): the closed form. -/
def execJump64 (s : State) : Host.Outcome State Fault Refusal :=
  s.onPort (Block.reading (cmdOf .jump64) (fun g b =>
    (b.write (jumpClosed64 g)).respond Response.done))

/-- JUMP96 (R132): the engine with the store's second polynomial. -/
def execJump96 (s : State) : Host.Outcome State Fault Refusal :=
  s.onPort (Block.reading (cmdOf .jump96) (fun g b =>
    (b.write (jumpPoly g j96W0 j96W1)).respond Response.done))

end Sys2Proof.Machine
end

