-- ==== Sys2Proof/Machine/Next.lean ====
section
/-! DEFINITION. The step family: NEXT. -/

namespace Sys2Proof.Machine

/-- NEXT (R115): output and new state both come from the state before the command. -/
def execNext (s : State) : Host.Outcome State Fault Refusal :=
  s.onPort (Block.reading (cmdOf .next) (fun g b =>
    (b.write (transition g)).respond (Response.value (output g))))

end Sys2Proof.Machine
end

