-- ==== Sys2Proof/Machine/Seeding.lean ====
section
/-! DEFINITION. The seeding family: SEED. -/

namespace Sys2Proof.Machine

/-- SEED v (R101): the state does not depend on what was there before, and there is no exception. -/
def execSeed (v : Word) (s : State) : Host.Outcome State Fault Refusal :=
  s.onPort (fun b => (b.assign (seedState v)).respond Response.done)

end Sys2Proof.Machine
end

