-- ==== Sys2Proof/Machine/Dispatch.lean ====
section
/-! DEFINITION. Dispatch of a decoded command (R67): one arm for each constructor of Instr. -/

namespace Sys2Proof.Machine

/-- `case op of` of R67. The check of `init` is in the meanings that read the state (R153). -/
def exec (i : Instr) (s : State) : Host.Outcome State Fault Refusal :=
  match i with
  | .seed v => Sys2Proof.Machine.execSeed v s
  | .next => Sys2Proof.Machine.execNext s
  | .jump32 => Sys2Proof.Machine.execJump32 s
  | .jump64 => Sys2Proof.Machine.execJump64 s
  | .jump96 => Sys2Proof.Machine.execJump96 s
  | .load a b => Sys2Proof.Machine.execLoad a b s
  | .read => Sys2Proof.Machine.execRead s

end Sys2Proof.Machine
end

