-- ==== Sys2Proof/Machine/Interface.lean ====
section
/-! DEFINITION. The command interface (R55, R182): what each interaction of the host does, and how the next one comes
to be delivered. -/

namespace Sys2Proof.Machine

/-- `Exec` of R67 on the driven interface: an illegal request faults, whatever its operands and whatever `init` is
(R152, R154); a legal one runs its command. -/
def State.issue (req : Request) (s : State) : Host.Outcome State Fault Refusal :=
  match decode req with
  | .op i => exec i s
  | .illegal => s.onPort (Block.raiseFault .illegalCommand req.cmd)

/-- One interaction of the host (R182). A command in progress when RESET comes is abandoned without effect (R176);
loss of power is a reset (R166); overlapping requests have no meaning (R51). -/
def State.deliver (inp : Input) (s : State) : Host.Outcome State Fault Refusal :=
  match inp with
  | .command k req => (s.drive k).issue req
  | .reset k => (s.drive k).onPort (Block.restart k)
  | .resetDuring k _ => (s.drive k).onPort (Block.restart k)
  | .powerLoss k => (s.drive k).onPort (Block.restart k)
  | .overlap _ _ _ => .refused .concurrentRequest

/-- The host's next interaction is delivered; with none left the machine waits, unchanged (R166, R177, R184,
log entry 3). -/
def State.deliverNext (s : State) : Host.Outcome State Fault Refusal :=
  match s.inputs with
  | [] => .next s
  | inp :: rest => (s.withInputs rest).deliver inp

/-- `s` with one more request in front of the host's list, for the interface driven now. -/
def State.offer (req : Request) (s : State) : State :=
  s.withInputs (.command s.port req :: s.inputs)

end Sys2Proof.Machine
end

