-- ==== Sys2Proof/Machine/Step.lean ====
section
/-! DEFINITION. One step of the machine: one interaction of the host, from before it to after it (R46). -/

namespace Sys2Proof.Machine

/-- One step (R46, R49). -/
def step (s : State) : Host.Outcome State Fault Refusal := s.deliverNext

/-- `s` with the request whose bits are `w` as the host's next one: the block fetches nothing (R52), so the host's
list is where the next command comes from (log entry 3). -/
def State.withFetchWord (s : State) (nbits w : Nat) : State := s.offer (Request.ofBits nbits w)

end Sys2Proof.Machine
end

