-- ==== Sys2Proof/Machine/Asm.lean ====
section
/-! DEFINITION. The assembler text of R68: the lines, the request each stands for, and the reading of a line from
its characters. There are no pseudo-instructions (R69). -/

namespace Sys2Proof.Machine

/-- One assembler line (R68), its numbers not yet checked against their range. -/
inductive AsmLine where
  | seed (v : Nat)
  | next
  | jump32
  | jump64
  | jump96
  | load (a b : Nat)
  | read
  | raw (byte d0 d1 : Nat)
deriving DecidableEq, Repr

/-- Every number of the line is in its range; a number outside it is refused (R68). -/
def AsmLine.wellFormed : AsmLine → Bool
  | .seed v => wordNumber v
  | .next => true
  | .jump32 => true
  | .jump64 => true
  | .jump96 => true
  | .load a b => wordNumber a && wordNumber b
  | .read => true
  | .raw byte d0 d1 => byteNumber byte && wordNumber d0 && wordNumber d1

/-- The request of a line whose numbers are in range (R68). -/
def AsmLine.request : AsmLine → Request
  | .seed v => encode (.seed (BitVec.ofNat 64 v))
  | .next => encode .next
  | .jump32 => encode .jump32
  | .jump64 => encode .jump64
  | .jump96 => encode .jump96
  | .load a b => encode (.load (BitVec.ofNat 64 a) (BitVec.ofNat 64 b))
  | .read => encode .read
  | .raw byte d0 d1 =>
    { cmd := BitVec.ofNat 8 byte, din0 := BitVec.ofNat 64 d0, din1 := BitVec.ofNat 64 d1 }

/-- The assembler: the line's request, or nothing where a number is out of range (R68). -/
def assemble (line : AsmLine) : Option Request :=
  if line.wellFormed then some line.request else none

/-- The value of a decimal digit. -/
def decDigit (c : Char) : Option Nat :=
  if 48 ≤ c.toNat ∧ c.toNat ≤ 57 then some (c.toNat - 48) else none

/-- The value of a hexadecimal digit, in either case (log entry 17). -/
def hexDigit (c : Char) : Option Nat :=
  if 48 ≤ c.toNat ∧ c.toNat ≤ 57 then some (c.toNat - 48)
  else if 65 ≤ c.toNat ∧ c.toNat ≤ 70 then some (c.toNat - 55)
  else if 97 ≤ c.toNat ∧ c.toNat ≤ 102 then some (c.toNat - 87)
  else none

/-- The number of a list of digits, most significant first (R8), continuing `acc`. -/
def digitsFrom (base : Nat) (digit : Char → Option Nat) : List Char → Nat → Option Nat
  | [], acc => some acc
  | c :: cs, acc =>
    match digit c with
    | some d => digitsFrom base digit cs (acc * base + d)
    | none => none

/-- A number: decimal, or hexadecimal after `0x` (R68). It has at least one digit. -/
def numberOf : List Char → Option Nat
  | [] => none
  | '0' :: 'x' :: c :: cs => digitsFrom 16 hexDigit (c :: cs) 0
  | c :: cs => digitsFrom 10 decDigit (c :: cs) 0

/-- Spaces at the front are dropped. -/
def trimFront (cs : List Char) : List Char := cs.dropWhile (· == ' ')

/-- Spaces at both ends are dropped (log entry 17). -/
def trim (cs : List Char) : List Char := (trimFront (trimFront cs).reverse).reverse

/-- The pieces between commas. -/
def splitCommas : List Char → List (List Char)
  | [] => [[]]
  | c :: cs =>
    match splitCommas cs with
    | [] => [[c]]
    | p :: ps => if c = ',' then [] :: p :: ps else (c :: p) :: ps

/-- The operand numbers of a line: none where only spaces stand, else one for each piece between commas. -/
def operandsOf (cs : List Char) : Option (List Nat) :=
  if trim cs = [] then some []
  else (splitCommas cs).mapM (fun p => numberOf (trim p))

/-- The line a mnemonic and its operands spell: lower case, the operands R68 gives it and no others. -/
def lineOf (mnemonic : List Char) (ops : List Nat) : Option AsmLine :=
  match mnemonic, ops with
  | ['s', 'e', 'e', 'd'], [v] => some (.seed v)
  | ['n', 'e', 'x', 't'], [] => some .next
  | ['j', 'u', 'm', 'p', '3', '2'], [] => some .jump32
  | ['j', 'u', 'm', 'p', '6', '4'], [] => some .jump64
  | ['j', 'u', 'm', 'p', '9', '6'], [] => some .jump96
  | ['l', 'o', 'a', 'd'], [a, b] => some (.load a b)
  | ['r', 'e', 'a', 'd'], [] => some .read
  | ['.', 'c', 'm', 'd'], [byte, d0, d1] => some (.raw byte d0 d1)
  | _, _ => none

/-- The line a list of characters spells (R68). -/
def parseLine (cs : List Char) : Option AsmLine :=
  let body := trimFront cs
  match operandsOf (body.dropWhile (· != ' ')) with
  | some ops => lineOf (body.takeWhile (· != ' ')) ops
  | none => none

/-- The request of a line of text; nothing where the text is no line of R68 or a number is out of range. -/
def assembleText (cs : List Char) : Option Request :=
  match parseLine cs with
  | some line => assemble line
  | none => none

end Sys2Proof.Machine
end

