-- ==== Sys2Proof/Machine/Poly.lean ====
section
/-! DEFINITION. The GF(2) view (R12): the characteristic polynomial of T, powers of x modulo it, and the sums of
powers of T that polynomials stand for. No command computes these; the spec's rules about jumping speak of them. -/

namespace Sys2Proof

/-- The state as a vector of 128 bits: bit j is s0[j] below 64 and s1[j − 64] from there on (R12). -/
def Gen.toVec (g : Gen) : BitVec 128 := g.s1 ++ g.s0

/-- The XOR of a list of states, vector addition (R12, R86). -/
def Gen.sum (gs : List Gen) : Gen := gs.foldr Gen.xor Gen.zero

end Sys2Proof

namespace Sys2Proof.Machine

/-- The 128-bit polynomial `{w1, w0}` of two words (R12, R125). -/
def polyOf (w0 w1 : Word) : BitVec 128 := w1 ++ w0

/-- The low word, w0, of a polynomial (R125). -/
def polyW0 (p : BitVec 128) : Word := p.extractLsb' 0 64

/-- The high word, w1, of a polynomial (R125). -/
def polyW1 (p : BitVec 128) : Word := p.extractLsb' 64 64

/-- The coefficients of x^0 to x^127 of the characteristic polynomial P of T (R91); x^128 has coefficient 1. -/
def charPolyLow : BitVec 128 := 0x6DB6DD73C9308D04C9308D05A4865071

/-- Multiplication by x modulo P: where a term x^128 comes out, P takes it away (R91, R130). -/
def mulXModP (p : BitVec 128) : BitVec 128 := (p <<< 1) ^^^ (if p.msb then charPolyLow else 0)

/-- `x^J mod P` (R130). -/
def xPowModP : Nat → BitVec 128
  | 0 => 1
  | j + 1 => mulXModP (xPowModP j)

/-- The powers T^j(g), for the j from 0 to 127 with p_j = 1 (R127). -/
def polyPowers (p : BitVec 128) (g : Gen) : List Gen :=
  ((List.range 128).filter (fun j => p.getLsbD j)).map (fun j => transitionPow j g)

/-- p(T)(g): the XOR of the powers T^j(g) with p_j = 1 (R127). -/
def polyAtT (p : BitVec 128) (g : Gen) : Gen := Gen.sum (polyPowers p g)

/-- The map f of R90: the part of T that the old s0 gives to the new s1. -/
def mix (x : Word) : Word := shl64 x shlA ^^^ sar64 x sarB

end Sys2Proof.Machine
end

