-- ==== Sys2Proof/Machine/Serial.lean ====
section
/-! DEFINITION. The state's form outside the block (R35, R42): sixteen bytes, s0 then s1, each word in the byte
order the host uses. The block itself never stores it and has no byte order (R41). -/

namespace Sys2Proof.Machine

/-- Byte `i` of a word, byte 0 the least significant. -/
def byteOf (w : Word) (i : Nat) : Byte := w.extractLsb' (8 * i) 8

/-- The eight bytes of a word in a byte order, first byte first (R42). -/
def wordBytes (order : ByteOrder) (w : Word) : List Byte :=
  match order with
  | .little => (List.range 8).map (byteOf w)
  | .big => ((List.range 8).map (byteOf w)).reverse

/-- The word whose bytes are given, most significant first. -/
def wordOfBig (bs : List Byte) : Word :=
  bs.foldl (fun w b => shl64 w 8 ||| b.setWidth 64) 0

/-- The word whose bytes are given in a byte order. -/
def wordOfBytes (order : ByteOrder) (bs : List Byte) : Word :=
  match order with
  | .little => wordOfBig bs.reverse
  | .big => wordOfBig bs

/-- The stored form of a state: s0 then s1 (R35, R42). -/
def storeGen (order : ByteOrder) (g : Gen) : List Byte :=
  wordBytes order g.s0 ++ wordBytes order g.s1

/-- The state a stored form holds, when it has its sixteen bytes (R35). -/
def restoreGen (order : ByteOrder) (bs : List Byte) : Option Gen :=
  if bs.length = 16 then
    some { s0 := wordOfBytes order (bs.take 8), s1 := wordOfBytes order (bs.drop 8) }
  else none

/-- The stored form in the byte order of the host of this platform (R7, log entry 14). -/
def hostStore (g : Gen) : List Byte := storeGen Config.serialByteOrder g

/-- What that host restores (R7, log entry 14). -/
def hostRestore (bs : List Byte) : Option Gen := restoreGen Config.serialByteOrder bs

end Sys2Proof.Machine
end

