-- ==== Sys2Proof/Safety.lean ====
section
/-! DEFINITION. The terms claims use: the observation of a run, a run without faults, the invariants of the record
a run leaves, and states that are not degenerate. -/

namespace Sys2Proof.Machine

/-- What is observed at the end of a run (R184). -/
structure Observation where
  responses : List Response
  state     : Option Gen
  init      : Bool
  faults    : List FaultRecord
deriving DecidableEq, Repr

/-- The observation of an instance's run (R184). The pair is there only when it has a value (R23). -/
def Block.observe (b : Block) : Observation :=
  { responses := b.responses, state := b.value, init := b.init, faults := b.faults }

/-- "No fault recorded", the premise a claim about a run takes (R156). -/
def Block.clean (b : Block) : Bool := b.faults == []

/-- The CMD bytes of the five commands that read the state (R21, R153). -/
def readerCmds : List Cmd := [cmdOf .next, cmdOf .jump32, cmdOf .jump64, cmdOf .jump96, cmdOf .read]

/-- The CMD byte fits the fault kind, as the table of R151 has it. -/
def FaultRecord.fits (f : FaultRecord) : Bool :=
  match f.kind with
  | .illegalCommand => decide (decode { cmd := f.info, din0 := 0, din1 := 0 } = .illegal)
  | .uninitialised => readerCmds.contains f.info

/-- The record of a run is consistent: the index counts the responses (R25, R56); there is one fault for each
response with ERR (R155, R156); a response with ERR carries zeros (R61); each fault's CMD fits its kind (R151); and
`init` is set exactly when some command has completed, since before SEED or LOAD every command faults (R22, R153). -/
structure Block.Consistent (b : Block) : Prop where
  index_counts  : b.index = b.responses.length
  fault_for_err : b.faults.length = (b.responses.filter (·.err)).length
  err_zero      : ∀ r ∈ b.responses, r.err = true → r = Response.faulted
  fault_fits    : ∀ f ∈ b.faults, f.fits = true
  init_iff_done : b.init = b.responses.any (fun r => !r.err)

/-- The machine's invariant: the driven interface is an instance's, and every instance's record is consistent. -/
structure State.Inv (s : State) : Prop where
  port_exists : s.port < s.blocks.length
  consistent  : ∀ b ∈ s.blocks, b.Consistent

/-- No instance that holds a value holds the degenerate state (0, 0) (R24). -/
def State.NonDegenerate (s : State) : Prop :=
  ∀ b ∈ s.blocks, b.init = true → b.gen ≠ Gen.zero

/-- The input is a LOAD of (0, 0), the one command a host that wants a stream must not send (R179). -/
def Input.loadsZero : Input → Bool
  | .command _ req => decide (decode req = .op (.load 0 0))
  | .reset _ => false
  | .resetDuring _ _ => false
  | .powerLoss _ => false
  | .overlap _ _ _ => false

/-- The instance an input is for (R182). -/
def Input.block : Input → Nat
  | .command k _ => k
  | .reset k => k
  | .resetDuring k _ => k
  | .powerLoss k => k
  | .overlap k _ _ => k

/-- Two instances that look the same from outside: everything equal, but for what the registers hold while
`init = 0` (R22, R23). -/
def Block.SameVisible (a b : Block) : Prop :=
  a.value = b.value ∧ a.init = b.init ∧ a.faults = b.faults ∧ a.responses = b.responses ∧ a.index = b.index
    ∧ a.resets = b.resets

/-- Two machines that look the same from outside. -/
def State.SameVisible (s t : State) : Prop :=
  s.port = t.port ∧ s.inputs = t.inputs ∧ List.Forall₂ Block.SameVisible s.blocks t.blocks

end Sys2Proof.Machine
end

