-- ==== Sys2Proof/Certificates/Slice0/Obligations.lean ====
section
/-! DEFINITION. The statements for the provers. Each docstring names the rules it comes from. In all of them
`s.blocks[s.port]? = some b` says that the driven interface is instance `b`'s; every instance is covered, in every
state, reachable or not. -/

open Sys2Proof Sys2Proof.Machine

/-! ### Decoding and encoding -/

/-- Every command's request decodes to it, at every operand, both as a request and as the 136 bits in the table's
numbering (log entry 15); and no request with another CMD byte decodes to it (R57, R58, R59, R66). -/
def Obligations.EncodedCommandReadsBack : Prop :=
  (∀ i : Instr, decode (encode i) = .op i) ∧
  (∀ i : Instr, decodeTableWord 136 (encode i).toBits = some i) ∧
  (∀ (i : Instr) (r : Request), decode r = .op i → r.cmd = (encode i).cmd)

/-- R63: illegal means RSV ≠ 00000 or OP = 000, which leaves exactly 0x01 to 0x07 legal; the others fault with
IllegalCommand. -/
def Obligations.ExactlySevenLegalCommands : Prop :=
  (∀ r : Request, decode r = .illegal ↔ (r.cmd.extractLsb' 3 5 ≠ 0 ∨ r.cmd.extractLsb' 0 3 = 0)) ∧
  (∀ r : Request, decode r = .illegal ↔ (r.cmd.toNat = 0x00 ∨ 0x08 ≤ r.cmd.toNat)) ∧
  (∀ (s : State) (b : Block) (k : Nat) (r : Request) (rest : List Input),
    s.inputs = .command k r :: rest → s.blocks[k]? = some b → (r.cmd.toNat = 0x00 ∨ 0x08 ≤ r.cmd.toNat) →
    step s = .next { blocks := s.blocks.set k { b with
        faults := b.faults ++ [⟨.illegalCommand, r.cmd⟩]
        responses := b.responses ++ [⟨true, 0, 0⟩]
        index := b.index + 1 }
                     port := k, inputs := rest })

/-- A few words written out from R57 and R58, with operands zero and with operands in the table's numbering
(log entry 15), and a few that name no command (R63). -/
def Obligations.WordsOfTheOpcodeMap : Prop :=
  decodeTableWord 8 0b00000001 = some (.seed 0) ∧
  decodeTableWord 8 0b00000010 = some .next ∧
  decodeTableWord 8 0b00000011 = some .jump32 ∧
  decodeTableWord 8 0b00000100 = some .jump64 ∧
  decodeTableWord 8 0b00000101 = some .jump96 ∧
  decodeTableWord 8 0b00000110 = some (.load 0 0) ∧
  decodeTableWord 8 0b00000111 = some .read ∧
  decodeTableWord 8 0b00000000 = none ∧
  decodeTableWord 8 0b00001011 = none ∧
  decodeTableWord 8 0b10000010 = none ∧
  decode { cmd := 0x06, din0 := 0x0123456789ABCDEF, din1 := 0xFEDCBA9876543210 }
    = .op (.load 0x0123456789ABCDEF 0xFEDCBA9876543210)

/-- R60: a port that R59 marks "ignored" has no effect on any result or state; under an illegal encoding neither
port has. -/
def Obligations.IgnoredPortsHaveNoEffect : Prop :=
  ∀ (s : State) (k : Nat) (r r' : Request) (rest : List Input),
    r.cmd = r'.cmd →
    (r.cmd = 0x01 → r.din0 = r'.din0) →
    (r.cmd = 0x06 → r.din0 = r'.din0 ∧ r.din1 = r'.din1) →
    step { s with inputs := .command k r :: rest } = step { s with inputs := .command k r' :: rest }

/-- A step runs the decoded command: it takes the input off the host's list, drives the interface it is for, and is
`exec` there (R49, R52, R67; log entries 3 and 4). -/
def Obligations.StepRunsDecodedCommand : Prop :=
  ∀ (s : State) (k : Nat) (r : Request) (rest : List Input) (i : Instr),
    s.inputs = .command k r :: rest → decode r = .op i →
    step s = exec i { s with port := k, inputs := rest }

/-! ### SEED, LOAD, READ -/

/-- R100, R101: SEED's operands and encoding, its whole effect, its corner cases and its example. It succeeds
whatever `init` is. -/
def Obligations.SeedCommand : Prop :=
  (∀ v : Word, lcg v = v * 6364136223846793005 + 1442695040888963407) ∧
  (∀ v d1 : Word, decode { cmd := 0x01, din0 := v, din1 := d1 } = .op (.seed v)) ∧
  (∀ (v : Word) (s : State) (b : Block), s.blocks[s.port]? = some b →
    exec (.seed v) s = .next { s with blocks := s.blocks.set s.port { b with
        gen := { s0 := lcg v, s1 := lcg (lcg v) }
        init := true
        responses := b.responses ++ [⟨false, 0, 0⟩]
        index := b.index + 1 } }) ∧
  lcg 0 = 0x14057B7EF767814F ∧ lcg (lcg 0) = 0x1A08EE1184BA6D32 ∧
  lcg 0xFFFFFFFFFFFFFFFF = 0xBBB38751AAD20222 ∧ lcg (lcg 0xFFFFFFFFFFFFFFFF) = 0xB1A9556F832ABF49 ∧
  lcg 0x9995B5B621535015 = 0 ∧ lcg (lcg 0x9995B5B621535015) = 0x14057B7EF767814F ∧
  lcg 401 = 0x6C64F673ED93B6CC ∧ lcg (lcg 401) = 0x97C703D5F6C9D72B

/-- R102: the state SEED produces depends only on v, whatever requests of any kind came before. -/
def Obligations.SeedForgetsHistory : Prop :=
  ∀ (reqs : List Request) (v d1 : Word) (s : State) (k : Nat) (b : Block),
    s.inputs = reqs.map (Input.command k) ++ [.command k { cmd := 0x01, din0 := v, din1 := d1 }] →
    s.blocks[k]? = some b →
    ∃ (t : State) (c : Block), core.run (reqs.length + 1) s = .next t ∧ t.blocks[k]? = some c ∧
      c.init = true ∧ c.gen = { s0 := lcg v, s1 := lcg (lcg v) }

/-- R103: SEED never produces (0, 0); distinct seeds give distinct states; Lcg is a bijection; exactly one seed gives
s0 = 0. -/
def Obligations.SeedNeverDegenerate : Prop :=
  (∀ v : Word, ¬ (lcg v = 0 ∧ lcg (lcg v) = 0)) ∧
  Function.Bijective lcg ∧
  (∀ v w : Word, seedState v = seedState w → v = w) ∧
  (∀ v : Word, lcg v = 0 ↔ v = 0x9995B5B621535015) ∧
  (0x5851F42D4C957F2D : Word) * 0xC097EF87329E28A5 = 1 ∧
  -(0x14057B7EF767814F : Word) * 0xC097EF87329E28A5 = 0x9995B5B621535015

/-- R104: the states SEED reaches are exactly those with s1 = Lcg(s0). -/
def Obligations.SeedReachesLcgPairs : Prop :=
  ∀ g : Gen, (∃ v : Word, seedState v = g) ↔ g.s1 = lcg g.s0

/-- R105: LOAD's operands and encoding and its whole effect, for every pair, (0, 0) among them; whatever `init` is.
Its example is the state four steps after seed 401. -/
def Obligations.LoadCommand : Prop :=
  (∀ x y : Word, decode { cmd := 0x06, din0 := x, din1 := y } = .op (.load x y)) ∧
  (∀ (x y : Word) (s : State) (b : Block), s.blocks[s.port]? = some b →
    exec (.load x y) s = .next { s with blocks := s.blocks.set s.port { b with
        gen := { s0 := x, s1 := y }
        init := true
        responses := b.responses ++ [⟨false, 0, 0⟩]
        index := b.index + 1 } }) ∧
  transitionPow 4 (seedState 401) = { s0 := 0x1FE470A806C38EB1, s1 := 0xFAC7289977D6FD63 }

/-- R106: READ's encoding, its response when the state has a value, its fault when it has none. It writes neither
the pair nor `init`. -/
def Obligations.ReadCommand : Prop :=
  (∀ x y : Word, decode { cmd := 0x07, din0 := x, din1 := y } = .op .read) ∧
  (∀ (s : State) (b : Block), s.blocks[s.port]? = some b → b.init = true →
    exec .read s = .next { s with blocks := s.blocks.set s.port { b with
        responses := b.responses ++ [⟨false, b.gen.s0, b.gen.s1⟩]
        index := b.index + 1 } }) ∧
  (∀ (s : State) (b : Block), s.blocks[s.port]? = some b → b.init = false →
    exec .read s = .next { s with blocks := s.blocks.set s.port { b with
        faults := b.faults ++ [⟨.uninitialised, 0x07⟩]
        responses := b.responses ++ [⟨true, 0, 0⟩]
        index := b.index + 1 } }) ∧
  seedState 401 = { s0 := 0x6C64F673ED93B6CC, s1 := 0x97C703D5F6C9D72B }

/-- R107, first sentence: a READ and then a LOAD of what it returned leave the state unchanged. Second sentence: the
same LOAD at any other instance makes that instance answer every later list of requests as this one does. -/
def Obligations.ReadThenLoadRestores : Prop :=
  (∀ (s : State) (k : Nat) (b : Block) (rd ld : Request),
    s.blocks[k]? = some b → b.init = true →
    rd.cmd = 0x07 → ld = { cmd := 0x06, din0 := b.gen.s0, din1 := b.gen.s1 } →
    s.inputs = [.command k rd, .command k ld] →
    ∃ (t : State) (c : Block), core.run 2 s = .next t ∧ t.blocks[k]? = some c ∧
      c.responses = b.responses ++ [⟨false, ld.din0, ld.din1⟩, ⟨false, 0, 0⟩] ∧
      c.gen = b.gen ∧ c.init = true) ∧
  (∀ (s s' : State) (k j : Nat) (b a : Block) (reqs : List Request),
    s.blocks[k]? = some b → b.init = true → s'.blocks = s.blocks → s.blocks[j]? = some a →
    s.inputs = reqs.map (Input.command k) →
    s'.inputs = .command j { cmd := 0x06, din0 := b.gen.s0, din1 := b.gen.s1 } :: reqs.map (Input.command j) →
    ∃ (t t' : State) (c c' : Block) (rs : List Response),
      core.run reqs.length s = .next t ∧ core.run (reqs.length + 1) s' = .next t' ∧
      t.blocks[k]? = some c ∧ t'.blocks[j]? = some c' ∧ rs.length = reqs.length ∧
      c.responses = b.responses ++ rs ∧ c'.responses = a.responses ++ ⟨false, 0, 0⟩ :: rs ∧ c'.gen = c.gen)

/-! ### NEXT -/

/-- R115: NEXT's encoding, its whole effect with output and new state written out, its fault, its corner cases and
its example. -/
def Obligations.NextCommand : Prop :=
  (∀ x y : Word, decode { cmd := 0x02, din0 := x, din1 := y } = .op .next) ∧
  (∀ (s : State) (b : Block), s.blocks[s.port]? = some b → b.init = true →
    exec .next s = .next { s with blocks := s.blocks.set s.port { b with
        gen := { s0 := b.gen.s1, s1 := shl64 b.gen.s0 2 ^^^ sar64 b.gen.s0 19 ^^^ b.gen.s1 }
        responses := b.responses ++
          [⟨false, rotl64 (b.gen.s0 * 0xD2B74407B1CE6E93) 29 + b.gen.s1, 0⟩]
        index := b.index + 1 } }) ∧
  (∀ (s : State) (b : Block), s.blocks[s.port]? = some b → b.init = false →
    exec .next s = .next { s with blocks := s.blocks.set s.port { b with
        faults := b.faults ++ [⟨.uninitialised, 0x02⟩]
        responses := b.responses ++ [⟨true, 0, 0⟩]
        index := b.index + 1 } }) ∧
  (output ⟨0, 0⟩ = 0 ∧ transition ⟨0, 0⟩ = ⟨0, 0⟩) ∧
  (output ⟨1, 0⟩ = 0xF639CDD27A56E880 ∧ transition ⟨1, 0⟩ = ⟨0, 4⟩) ∧
  (output ⟨0, 1⟩ = 1 ∧ transition ⟨0, 1⟩ = ⟨1, 1⟩) ∧
  (output ⟨0x8000000000000000, 0⟩ = 0x0000000010000000 ∧
    transition ⟨0x8000000000000000, 0⟩ = ⟨0, 0xFFFFF00000000000⟩) ∧
  (output ⟨0xFFFFFFFFFFFFFFFF, 0xFFFFFFFFFFFFFFFF⟩ = 0x09C6322DA5A9177E ∧
    transition ⟨0xFFFFFFFFFFFFFFFF, 0xFFFFFFFFFFFFFFFF⟩ = ⟨0xFFFFFFFFFFFFFFFF, 0xFFFFFFFFFFFFFFFC⟩) ∧
  (output ⟨0x6C64F673ED93B6CC, 0x97C703D5F6C9D72B⟩ = 0xF8D7B7BA91C4D17A ∧
    transition ⟨0x6C64F673ED93B6CC, 0x97C703D5F6C9D72B⟩ = ⟨0x97C703D5F6C9D72B, 0x2654D796DE4971A9⟩)

/-- The command for NEXT n times over leaves T^n of the state and answers with the outputs of the states passed, in
order, whatever stands on the ports (R12, R115). -/
def Obligations.NextsIterateTransition : Prop :=
  ∀ (reqs : List Request) (s : State) (k : Nat) (b : Block),
    (∀ r ∈ reqs, r.cmd = 0x02) → s.inputs = reqs.map (Input.command k) →
    s.blocks[k]? = some b → b.init = true →
    ∃ (t : State) (c : Block), core.run reqs.length s = .next t ∧ t.blocks[k]? = some c ∧ c.init = true ∧
      c.gen = transitionPow reqs.length b.gen ∧ c.faults = b.faults ∧
      c.responses = b.responses ++
        (List.range reqs.length).map (fun j => ⟨false, output (transitionPow j b.gen), 0⟩)

/-- R116: two instances, of one machine or of two, that hold the same state and receive the same commands return the
same responses, and hold the same state afterwards. What the registers of an instance with `init = 0` hold plays no
part. -/
def Obligations.SameStateSameResponses : Prop :=
  ∀ (reqs : List Request) (s s' : State) (k k' : Nat) (b b' : Block),
    s.inputs = reqs.map (Input.command k) → s'.inputs = reqs.map (Input.command k') →
    s.blocks[k]? = some b → s'.blocks[k']? = some b' →
    b.init = b'.init → (b.init = true → b.gen = b'.gen) →
    ∃ (t t' : State) (c c' : Block) (rs : List Response),
      core.run reqs.length s = .next t ∧ core.run reqs.length s' = .next t' ∧
      t.blocks[k]? = some c ∧ t'.blocks[k']? = some c' ∧ rs.length = reqs.length ∧
      c.responses = b.responses ++ rs ∧ c'.responses = b'.responses ++ rs ∧
      c.init = c'.init ∧ (c.init = true → c.gen = c'.gen)

/-- R93, R117: from (0, 0) every NEXT outputs 0 with ERR = 0, records no fault, and leaves (0, 0). -/
def Obligations.DegenerateStreamIsZero : Prop :=
  output Gen.zero = 0 ∧ transition Gen.zero = Gen.zero ∧
  ∀ (reqs : List Request) (s : State) (k : Nat) (b : Block),
    (∀ r ∈ reqs, r.cmd = 0x02) → s.inputs = reqs.map (Input.command k) →
    s.blocks[k]? = some b → b.init = true → b.gen = Gen.zero →
    ∃ (t : State) (c : Block), core.run reqs.length s = .next t ∧ t.blocks[k]? = some c ∧
      c.gen = Gen.zero ∧ c.faults = b.faults ∧
      c.responses = b.responses ++ List.replicate reqs.length ⟨false, 0, 0⟩

/-- R118: no sequence of NEXT commands takes a state other than (0, 0) to (0, 0). -/
def Obligations.NextsNeverReachZero : Prop :=
  ∀ (reqs : List Request) (s : State) (k : Nat) (b : Block),
    (∀ r ∈ reqs, r.cmd = 0x02) → s.inputs = reqs.map (Input.command k) →
    s.blocks[k]? = some b → b.init = true → b.gen ≠ Gen.zero →
    ∃ (t : State) (c : Block), core.run reqs.length s = .next t ∧ t.blocks[k]? = some c ∧ c.gen ≠ Gen.zero

/-- R119: from any state other than (0, 0) the states after k steps repeat with period exactly 2^128 − 1; so a list of
NEXT commands comes back to the state it started from exactly when its length is a multiple of that. -/
def Obligations.StatesRepeatWithFullPeriod : Prop :=
  (∀ (g : Gen) (i j : Nat), g ≠ Gen.zero →
    (transitionPow i g = transitionPow j g ↔ i ≡ j [MOD 2 ^ 128 - 1])) ∧
  (∀ (reqs : List Request) (s : State) (k : Nat) (b : Block),
    (∀ r ∈ reqs, r.cmd = 0x02) → s.inputs = reqs.map (Input.command k) →
    s.blocks[k]? = some b → b.init = true → b.gen ≠ Gen.zero →
    ∃ (t : State) (c : Block), core.run reqs.length s = .next t ∧ t.blocks[k]? = some c ∧
      (c.gen = b.gen ↔ (2 ^ 128 - 1) ∣ reqs.length))

/-! ### The datapath -/

/-- R80: the rotate's formula, its bits, and that a rotate by 0 changes nothing. -/
def Obligations.RotateMovesBits : Prop :=
  (∀ (x : Word) (k : Nat), k ≤ 63 → rotl64 x k = shl64 x k ||| lsr64 x ((64 - k) % 64)) ∧
  (∀ (x : Word) (k i : Nat), k ≤ 63 → i ≤ 63 →
    (rotl64 x k).getLsbD i = x.getLsbD ((i + (64 - k)) % 64)) ∧
  (∀ x : Word, rotl64 x 0 = x)

/-- R82: the logical shifts as bits and as numbers; a shift by 0 returns x. -/
def Obligations.LogicalShiftsFillWithZeros : Prop :=
  (∀ (x : Word) (n : Nat), n ≤ 63 → (shl64 x n).toNat = x.toNat * 2 ^ n % 2 ^ 64) ∧
  (∀ (x : Word) (n i : Nat), n ≤ 63 → i ≤ 63 →
    (shl64 x n).getLsbD i = if n ≤ i then x.getLsbD (i - n) else false) ∧
  (∀ (x : Word) (n : Nat), n ≤ 63 → (lsr64 x n).toNat = x.toNat / 2 ^ n) ∧
  (∀ (x : Word) (n i : Nat), n ≤ 63 → i ≤ 63 →
    (lsr64 x n).getLsbD i = if i ≤ 63 - n then x.getLsbD (i + n) else false) ∧
  (∀ x : Word, shl64 x 0 = x ∧ lsr64 x 0 = x)

/-- R83: the arithmetic right shift as bits, and as signed division by 2^n rounding toward −∞. -/
def Obligations.ArithmeticShiftKeepsSign : Prop :=
  (∀ (x : Word) (n i : Nat), n ≤ 63 → i ≤ 63 →
    (sar64 x n).getLsbD i = if i ≤ 63 - n then x.getLsbD (i + n) else x.getLsbD 63) ∧
  (∀ (x : Word) (n : Nat), n ≤ 63 → (sar64 x n).toInt = x.toInt / 2 ^ n) ∧
  sar64 0x8000000000000000 19 = 0xFFFFF00000000000 ∧
  sar64 0xFFFFFFFFFFFFFFFF 19 = 0xFFFFFFFFFFFFFFFF ∧
  sar64 0x7FFFFFFFFFFFFFFF 19 = 0x00000FFFFFFFFFFF ∧
  sar64 0x0000000000080000 19 = 1 ∧
  sar64 0x000000000007FFFF 19 = 0

/-- R89: T is linear over GF(2). -/
def Obligations.TransitionIsLinear : Prop :=
  (∀ a b : Gen, transition (Gen.xor a b) = Gen.xor (transition a) (transition b)) ∧
  transition ⟨0, 0⟩ = ⟨0, 0⟩

/-- R90: f is a linear bijection on words, T is a bijection on states, and its inverse is
(n0, n1) ↦ (f⁻¹(n1 ^ n0), n0). -/
def Obligations.TransitionIsBijective : Prop :=
  Function.Bijective transition ∧
  (∀ x y : Word, mix (x ^^^ y) = mix x ^^^ mix y) ∧
  ∃ finv : Word → Word,
    (∀ x : Word, finv (shl64 x 2 ^^^ sar64 x 19) = x) ∧
    (∀ y : Word, shl64 (finv y) 2 ^^^ sar64 (finv y) 19 = y) ∧
    (∀ n0 n1 : Word, transition ⟨finv (n1 ^^^ n0), n0⟩ = ⟨n0, n1⟩) ∧
    (∀ g : Gen, (⟨finv ((transition g).s1 ^^^ (transition g).s0), (transition g).s0⟩ : Gen) = g)

/-- R92: the output scrambler is not linear over GF(2). -/
def Obligations.OutputIsNotLinear : Prop :=
  ∃ a b : Gen, output (Gen.xor a b) ≠ output a ^^^ output b

/-! ### The jump engine and the jump commands -/

/-- R127: at the iteration for bit j = 64i + b the running state is T^j(S), and so the engine computes
the XOR of T^j(S) over the set bits j of the polynomial, for every state and every polynomial. -/
def Obligations.EngineEvaluatesPolynomialAtT : Prop :=
  (∀ (g : Gen) (w0 w1 : Word) (b : Nat), b ≤ 63 →
    ((List.range b).foldl (engineBit w0) { acc := Gen.zero, run := g }).run = transitionPow b g ∧
    ((List.range b).foldl (engineBit w1) (engineWord w0 { acc := Gen.zero, run := g })).run
      = transitionPow (64 + b) g) ∧
  (∀ (g : Gen) (w0 w1 : Word),
    jumpPoly g w0 w1 =
      (((List.range 128).filter (fun j => (w1 ++ w0 : BitVec 128).getLsbD j)).map
        (fun j => transitionPow j g)).foldr Gen.xor Gen.zero)

/-- R128: the engine's corner cases, for every state or every polynomial. -/
def Obligations.EngineCornerCases : Prop :=
  ∀ g : Gen,
    jumpPoly g 0 0 = ⟨0, 0⟩ ∧
    jumpPoly g 1 0 = g ∧
    jumpPoly g 2 0 = transition g ∧
    jumpPoly g 3 0 = Gen.xor g (transition g) ∧
    jumpPoly g 0 0x8000000000000000 = transitionPow 127 g ∧
    ∀ w0 w1 : Word, jumpPoly ⟨0, 0⟩ w0 w1 = ⟨0, 0⟩

/-- R130: with p = x^J mod P the engine gives T^J(S), for every J and S; and the constants of the jump commands are
these polynomials for J = 2^32, 2^64 and 2^96. -/
def Obligations.EngineJumpsByPowersOfX : Prop :=
  (∀ (J : Nat) (g : Gen), jumpPoly g (polyW0 (xPowModP J)) (polyW1 (xPowModP J)) = transitionPow J g) ∧
  (∀ J : Nat, J = 2 ^ 32 → xPowModP J = polyOf 0x8003A4B944F009D0 0x7FFE925EEBD5615B) ∧
  (∀ J : Nat, J = 2 ^ 64 → xPowModP J = polyOf 0x0000000000000003 0) ∧
  (∀ J : Nat, J = 2 ^ 96 → xPowModP J = polyOf 0x8003A4B944F009D1 0x7FFE925EEBD5615B)

/-- R131: JUMP32's encoding, its whole effect, its fault, its corner cases and its example. -/
def Obligations.Jump32Command : Prop :=
  (∀ x y : Word, decode { cmd := 0x03, din0 := x, din1 := y } = .op .jump32) ∧
  (∀ (s : State) (b : Block), s.blocks[s.port]? = some b → b.init = true →
    exec .jump32 s = .next { s with blocks := s.blocks.set s.port { b with
        gen := jumpPoly b.gen 0x8003A4B944F009D0 0x7FFE925EEBD5615B
        responses := b.responses ++ [⟨false, 0, 0⟩]
        index := b.index + 1 } }) ∧
  (∀ (s : State) (b : Block), s.blocks[s.port]? = some b → b.init = false →
    exec .jump32 s = .next { s with blocks := s.blocks.set s.port { b with
        faults := b.faults ++ [⟨.uninitialised, 0x03⟩]
        responses := b.responses ++ [⟨true, 0, 0⟩]
        index := b.index + 1 } }) ∧
  jumpPoly ⟨0, 0⟩ 0x8003A4B944F009D0 0x7FFE925EEBD5615B = ⟨0, 0⟩ ∧
  jumpPoly ⟨1, 0⟩ 0x8003A4B944F009D0 0x7FFE925EEBD5615B = ⟨0x9152E8129E39460C, 0x0000000000000004⟩ ∧
  jumpPoly ⟨0, 1⟩ 0x8003A4B944F009D0 0x7FFE925EEBD5615B = ⟨0x0000000000000001, 0x9152E8129E39460D⟩ ∧
  jumpPoly ⟨0x1FE470A806C38EB1, 0xFAC7289977D6FD63⟩ 0x8003A4B944F009D0 0x7FFE925EEBD5615B
    = ⟨0x985B17ADA536684C, 0x2CECBEFC3FB03DF8⟩

/-- R132: JUMP96's encoding, its whole effect, its fault, its corner cases and its example. -/
def Obligations.Jump96Command : Prop :=
  (∀ x y : Word, decode { cmd := 0x05, din0 := x, din1 := y } = .op .jump96) ∧
  (∀ (s : State) (b : Block), s.blocks[s.port]? = some b → b.init = true →
    exec .jump96 s = .next { s with blocks := s.blocks.set s.port { b with
        gen := jumpPoly b.gen 0x8003A4B944F009D1 0x7FFE925EEBD5615B
        responses := b.responses ++ [⟨false, 0, 0⟩]
        index := b.index + 1 } }) ∧
  (∀ (s : State) (b : Block), s.blocks[s.port]? = some b → b.init = false →
    exec .jump96 s = .next { s with blocks := s.blocks.set s.port { b with
        faults := b.faults ++ [⟨.uninitialised, 0x05⟩]
        responses := b.responses ++ [⟨true, 0, 0⟩]
        index := b.index + 1 } }) ∧
  jumpPoly ⟨0, 0⟩ 0x8003A4B944F009D1 0x7FFE925EEBD5615B = ⟨0, 0⟩ ∧
  jumpPoly ⟨1, 0⟩ 0x8003A4B944F009D1 0x7FFE925EEBD5615B = ⟨0x9152E8129E39460D, 0x0000000000000004⟩ ∧
  jumpPoly ⟨0, 1⟩ 0x8003A4B944F009D1 0x7FFE925EEBD5615B = ⟨0x0000000000000001, 0x9152E8129E39460C⟩ ∧
  jumpPoly ⟨0xB4B7A9519A8655B4, 0x9E93ADBDF62C1596⟩ 0x8003A4B944F009D1 0x7FFE925EEBD5615B
    = ⟨0x67EA4FFD18216615, 0x696B13B974BFBFF7⟩

/-- R133: JUMP64's encoding, its whole effect in closed form, its fault, its corner cases and its example; and the
closed form is the engine with (3, 0), which is S ^ T(S). -/
def Obligations.Jump64Command : Prop :=
  (∀ x y : Word, decode { cmd := 0x04, din0 := x, din1 := y } = .op .jump64) ∧
  (∀ (s : State) (b : Block), s.blocks[s.port]? = some b → b.init = true →
    exec .jump64 s = .next { s with blocks := s.blocks.set s.port { b with
        gen := { s0 := b.gen.s0 ^^^ b.gen.s1, s1 := shl64 b.gen.s0 2 ^^^ sar64 b.gen.s0 19 }
        responses := b.responses ++ [⟨false, 0, 0⟩]
        index := b.index + 1 } }) ∧
  (∀ (s : State) (b : Block), s.blocks[s.port]? = some b → b.init = false →
    exec .jump64 s = .next { s with blocks := s.blocks.set s.port { b with
        faults := b.faults ++ [⟨.uninitialised, 0x04⟩]
        responses := b.responses ++ [⟨true, 0, 0⟩]
        index := b.index + 1 } }) ∧
  (∀ g : Gen, jumpClosed64 g = jumpPoly g 3 0 ∧ jumpClosed64 g = Gen.xor g (transition g)) ∧
  jumpClosed64 ⟨0, 0⟩ = ⟨0, 0⟩ ∧
  jumpClosed64 ⟨1, 0⟩ = ⟨1, 4⟩ ∧
  jumpClosed64 ⟨0, 1⟩ = ⟨1, 0⟩ ∧
  jumpClosed64 ⟨0x8000000000000000, 0⟩ = ⟨0x8000000000000000, 0xFFFFF00000000000⟩ ∧
  jumpClosed64 ⟨0xFFFFFFFFFFFFFFFF, 0xFFFFFFFFFFFFFFFF⟩ = ⟨0, 3⟩ ∧
  jumpClosed64 ⟨0x985B17ADA536684C, 0x2CECBEFC3FB03DF8⟩ = ⟨0xB4B7A9519A8655B4, 0x9E93ADBDF62C1596⟩

/-- R134: for every state and each n in 32, 64 and 96, the jump command leaves the state that 2^n NEXT commands would
leave; and the closed form of JUMP64 is the generic algorithm with (3, 0). -/
def Obligations.JumpEqualsManyNexts : Prop :=
  (∀ (J : Nat) (s : State) (b : Block), J = 2 ^ 32 → s.blocks[s.port]? = some b → b.init = true →
    exec .jump32 s = .next { s with blocks := s.blocks.set s.port { b with
        gen := transitionPow J b.gen
        responses := b.responses ++ [⟨false, 0, 0⟩]
        index := b.index + 1 } }) ∧
  (∀ (J : Nat) (s : State) (b : Block), J = 2 ^ 64 → s.blocks[s.port]? = some b → b.init = true →
    exec .jump64 s = .next { s with blocks := s.blocks.set s.port { b with
        gen := transitionPow J b.gen
        responses := b.responses ++ [⟨false, 0, 0⟩]
        index := b.index + 1 } }) ∧
  (∀ (J : Nat) (s : State) (b : Block), J = 2 ^ 96 → s.blocks[s.port]? = some b → b.init = true →
    exec .jump96 s = .next { s with blocks := s.blocks.set s.port { b with
        gen := transitionPow J b.gen
        responses := b.responses ++ [⟨false, 0, 0⟩]
        index := b.index + 1 } }) ∧
  (∀ (reqs : List Request) (s : State) (k : Nat) (b : Block),
    (∀ r ∈ reqs, r.cmd = 0x02) → s.inputs = reqs.map (Input.command k) →
    s.blocks[k]? = some b → b.init = true →
    ∃ (t : State) (c : Block), core.run reqs.length s = .next t ∧ t.blocks[k]? = some c ∧
      c.gen = transitionPow reqs.length b.gen) ∧
  (∀ g : Gen, jumpClosed64 g = jumpPoly g 3 0)

/-- R135: the jumps commute with each other and with T; the example from (1, 0). -/
def Obligations.JumpsCommute : Prop :=
  (∀ f ∈ [fun g => jumpPoly g j32W0 j32W1, jumpClosed64, fun g => jumpPoly g j96W0 j96W1],
    (∀ h ∈ [fun g => jumpPoly g j32W0 j32W1, jumpClosed64, fun g => jumpPoly g j96W0 j96W1],
      ∀ g : Gen, f (h g) = h (f g)) ∧
    ∀ g : Gen, f (transition g) = transition (f g)) ∧
  jumpPoly (transition ⟨1, 0⟩) j32W0 j32W1 = ⟨0x0000000000000004, 0xBAB4526025E74BF3⟩ ∧
  transition (jumpPoly ⟨1, 0⟩ j32W0 j32W1) = ⟨0x0000000000000004, 0xBAB4526025E74BF3⟩

/-- R136: JUMP96(S) = JUMP32(S) ^ S for every S, that is, T^(2^96) = T^(2^32) + I; the two polynomials differ only in
bit 0. -/
def Obligations.Jump96IsJump32XorState : Prop :=
  polyOf j96W0 j96W1 = polyOf j32W0 j32W1 ^^^ 1 ∧
  (∀ g : Gen, jumpPoly g j96W0 j96W1 = Gen.xor (jumpPoly g j32W0 j32W1) g) ∧
  (∀ (J K : Nat) (g : Gen), J = 2 ^ 96 → K = 2 ^ 32 →
    transitionPow J g = Gen.xor (transitionPow K g) g)

/-- R137: each jump takes (0, 0) to (0, 0) and no other state there. -/
def Obligations.JumpsNeverReachZero : Prop :=
  ∀ g : Gen,
    (jumpPoly g j32W0 j32W1 = Gen.zero ↔ g = Gen.zero) ∧
    (jumpClosed64 g = Gen.zero ↔ g = Gen.zero) ∧
    (jumpPoly g j96W0 j96W1 = Gen.zero ↔ g = Gen.zero)

/-! ### Responses and faults -/

/-- R61: the response of every command, completed or faulted, is the table's; it is the one response the command
adds. -/
def Obligations.ResponsesFollowTheTable : Prop :=
  ∀ (s t : State) (b c : Block) (k : Nat) (r : Request) (rest : List Input),
    s.inputs = .command k r :: rest → s.blocks[k]? = some b →
    step s = .next t → t.blocks[k]? = some c →
    c.responses = b.responses ++ [
      match decode r with
      | .illegal => ⟨true, 0, 0⟩
      | .op (.seed _) => ⟨false, 0, 0⟩
      | .op (.load _ _) => ⟨false, 0, 0⟩
      | .op .next => if b.init then ⟨false, output b.gen, 0⟩ else ⟨true, 0, 0⟩
      | .op .read => if b.init then ⟨false, b.gen.s0, b.gen.s1⟩ else ⟨true, 0, 0⟩
      | .op .jump32 => if b.init then ⟨false, 0, 0⟩ else ⟨true, 0, 0⟩
      | .op .jump64 => if b.init then ⟨false, 0, 0⟩ else ⟨true, 0, 0⟩
      | .op .jump96 => if b.init then ⟨false, 0, 0⟩ else ⟨true, 0, 0⟩ ]

/-- R153: the five commands that read the state fault with Uninitialised when `init = 0`, and have that one effect;
SEED and LOAD record no fault, whatever `init` is. -/
def Obligations.ReadersFaultUninitialised : Prop :=
  (∀ (s : State) (b : Block) (i : Instr), i ∈ [Instr.next, .jump32, .jump64, .jump96, .read] →
    s.blocks[s.port]? = some b → b.init = false →
    exec i s = .next { s with blocks := s.blocks.set s.port { b with
        faults := b.faults ++ [⟨.uninitialised, cmdOf i⟩]
        responses := b.responses ++ [⟨true, 0, 0⟩]
        index := b.index + 1 } }) ∧
  (∀ (s : State) (b : Block) (v x y : Word), s.blocks[s.port]? = some b →
    (∃ (t : State) (c : Block), exec (.seed v) s = .next t ∧ t.blocks[s.port]? = some c ∧ c.faults = b.faults) ∧
    (∃ (t : State) (c : Block), exec (.load x y) s = .next t ∧ t.blocks[s.port]? = some c ∧ c.faults = b.faults))

/-- R152: every request with an illegal CMD faults with IllegalCommand, whatever its operands and whatever `init`. -/
def Obligations.IllegalRequestsFault : Prop :=
  ∀ (s : State) (b : Block) (k : Nat) (cmd : Cmd) (d0 d1 : Word) (rest : List Input),
    s.blocks[k]? = some b → (cmd.extractLsb' 3 5 ≠ 0 ∨ cmd.extractLsb' 0 3 = 0) →
    s.inputs = .command k { cmd := cmd, din0 := d0, din1 := d1 } :: rest →
    step s = .next { blocks := s.blocks.set k { b with
        faults := b.faults ++ [⟨.illegalCommand, cmd⟩]
        responses := b.responses ++ [⟨true, 0, 0⟩]
        index := b.index + 1 }
                     port := k, inputs := rest }

/-- R154: a command raises at most one fault, and IllegalCommand is checked before Uninitialised. -/
def Obligations.AtMostOneFaultByPriority : Prop :=
  ∀ (s : State) (b : Block) (k : Nat) (r : Request) (rest : List Input),
    s.inputs = .command k r :: rest → s.blocks[k]? = some b →
    ∃ (t : State) (c : Block), step s = .next t ∧ t.blocks[k]? = some c ∧
      c.faults = b.faults ++
        (if r.cmd.toNat = 0 ∨ 8 ≤ r.cmd.toNat then [⟨.illegalCommand, r.cmd⟩]
         else if b.init = false ∧ r.cmd ≠ 0x01 ∧ r.cmd ≠ 0x06 then [⟨.uninitialised, r.cmd⟩]
         else [])

/-- R155: a command answered with ERR = 1 writes nothing but the model's record: pair and `init` keep their values,
the result fields are zero, and the machine goes on with the next input. -/
def Obligations.FaultedCommandWritesNothing : Prop :=
  ∀ (s t : State) (b c : Block) (k : Nat) (r : Request) (rest : List Input),
    s.inputs = .command k r :: rest → s.blocks[k]? = some b →
    step s = .next t → t.blocks[k]? = some c →
    (∃ a : Response, c.responses.getLast? = some a ∧ a.err = true) →
    c.gen = b.gen ∧ c.init = b.init ∧ c.resets = b.resets ∧
      c.responses = b.responses ++ [⟨true, 0, 0⟩] ∧ c.index = b.index + 1 ∧
      (∃ f : FaultRecord, f.info = r.cmd ∧ c.faults = b.faults ++ [f]) ∧
      t = { blocks := s.blocks.set k c, port := k, inputs := rest }

/-- R32, R156: no command removes an entry of `faults`, at any instance. -/
def Obligations.FaultRecordOnlyGrows : Prop :=
  ∀ (s t : State) (k j : Nat) (r : Request) (rest : List Input) (b : Block),
    s.inputs = .command k r :: rest → step s = .next t → s.blocks[j]? = some b →
    ∃ (c : Block) (new : List FaultRecord), t.blocks[j]? = some c ∧ c.faults = b.faults ++ new ∧ new.length ≤ 1

/-- R24, R158: (0, 0) is no fault. LOAD of (0, 0), and NEXT and every jump from (0, 0), complete with ERR = 0, leave
(0, 0) and record nothing. -/
def Obligations.DegenerateStateIsNoFault : Prop :=
  ∀ (s : State) (b : Block) (i : Instr), s.blocks[s.port]? = some b →
    (i = .load 0 0 ∨ (b.init = true ∧ b.gen = Gen.zero ∧ i ∈ [Instr.next, .jump32, .jump64, .jump96])) →
    exec i s = .next { s with blocks := s.blocks.set s.port { b with
        gen := Gen.zero
        init := true
        responses := b.responses ++ [⟨false, 0, 0⟩]
        index := b.index + 1 } }

/-- R178: from reset, of any number of instances, as long as no SEED and no LOAD has come, every command faults and
`init` stays 0. -/
def Obligations.NothingCompletesBeforeSeedOrLoad : Prop :=
  ∀ (n k : Nat) (reqs : List Request), k < n → (∀ r ∈ reqs, r.cmd ≠ 0x01 ∧ r.cmd ≠ 0x06) →
    ∃ (t : State) (c : Block),
      core.run reqs.length { State.resetOf n with inputs := reqs.map (Input.command k) } = .next t ∧
      t.blocks[k]? = some c ∧ c.init = false ∧
      c.responses = List.replicate reqs.length ⟨true, 0, 0⟩ ∧
      c.faults = reqs.map (fun r =>
        if decode r = .illegal then ⟨.illegalCommand, r.cmd⟩ else ⟨.uninitialised, r.cmd⟩)

/-- R180: a READ straight after a NEXT or a jump returns the new state. -/
def Obligations.ReadAfterChangeSeesIt : Prop :=
  ∀ (s : State) (k : Nat) (b : Block) (r rd : Request),
    s.blocks[k]? = some b → b.init = true → r.cmd ∈ [(0x02 : Cmd), 0x03, 0x04, 0x05] → rd.cmd = 0x07 →
    s.inputs = [.command k r, .command k rd] →
    ∃ (t : State) (c : Block) (a : Response) (g : Gen), core.run 2 s = .next t ∧ t.blocks[k]? = some c ∧
      c.responses = b.responses ++ [a, ⟨false, g.s0, g.s1⟩] ∧ c.gen = g ∧
      (r.cmd = 0x02 → g = transition b.gen) ∧
      (r.cmd = 0x03 → g = jumpPoly b.gen j32W0 j32W1) ∧
      (r.cmd = 0x04 → g = jumpClosed64 b.gen) ∧
      (r.cmd = 0x05 → g = jumpPoly b.gen j96W0 j96W1)

/-! ### The whole machine -/

/-- R33: after reset every instance has `init = 0`, no value in the pair, no response (log entry 6) and no recorded
fault, and its index is 0 (R25); there are N_INSTANCES of them, at least one (R7, log entry 2). -/
def Obligations.ResetLeavesNoValue : Prop :=
  State.reset.blocks.length = Config.nBlocks ∧ 1 ≤ Config.nBlocks ∧
  ∀ b ∈ State.reset.blocks,
    b.init = false ∧ b.value = none ∧ b.lastResponse = none ∧ b.faults = [] ∧ b.index = 0

/-- R33, R175, R176: RESET puts its instance in the reset state, whatever state it was in: `init` is 0 and the pair has
no value. That it starts a new run of that instance alone, with responses and faults empty and the index (R25) at 0,
while the other instances (R34) stay as they were, is log entry 7 (DEDUCED). -/
def Obligations.ResetInputClearsInstance : Prop :=
  ∀ (s : State) (k : Nat) (b : Block) (rest : List Input),
    s.inputs = .reset k :: rest → s.blocks[k]? = some b →
    ∃ (t : State) (c : Block), step s = .next t ∧ t.blocks[k]? = some c ∧
      c.init = false ∧ c.value = none ∧ c.lastResponse = none ∧ c.faults = [] ∧ c.index = 0 ∧
      t.inputs = rest ∧ t.blocks.length = s.blocks.length ∧
      ∀ j, j ≠ k → t.blocks[j]? = s.blocks[j]?

/-- R166, R175, R176 (log entry 8): a RESET during a command, and a loss of power, do exactly what a RESET between commands
does; the command has no effect. -/
def Obligations.AbandonedCommandHasNoEffect : Prop :=
  ∀ (s : State) (k : Nat) (r : Request) (rest : List Input),
    step { s with inputs := .resetDuring k r :: rest } = step { s with inputs := .reset k :: rest } ∧
    step { s with inputs := .powerLoss k :: rest } = step { s with inputs := .reset k :: rest }

/-- R34: there are N_INSTANCES instances (log entry 2) and their number does not change; a command for one neither writes
the state of another nor reads it. The clauses say so of every input: of RESET (R175, R176) by log entry 7 (DEDUCED),
and of loss of power (R166) by log entry 8, where the model lets single instances lose it (DESIGN CHOICE). -/
def Obligations.InstancesAreIndependent : Prop :=
  State.reset.blocks.length = Config.nBlocks ∧
  (∀ (s t : State) (inp : Input) (rest : List Input), s.inputs = inp :: rest → step s = .next t →
    t.blocks.length = s.blocks.length ∧ ∀ j, j ≠ inp.block → t.blocks[j]? = s.blocks[j]?) ∧
  (∀ (s s' t t' : State) (inp : Input) (rest rest' : List Input),
    s.inputs = inp :: rest → s'.inputs = inp :: rest' → s.blocks[inp.block]? = s'.blocks[inp.block]? →
    step s = .next t → step s' = .next t' → t.blocks[inp.block]? = t'.blocks[inp.block]?)

/-- R22: reset clears `init`, a SEED or LOAD sets it, nothing else changes it. Every input that is no command and has a
next state is a reset: RESET between commands (R175), RESET during one (R176), and loss of power, which counts as a
reset (R166); that the last two do what RESET does is log entry 8. -/
def Obligations.InitChangesOnlyBySeedLoadReset : Prop :=
  ∀ (s t : State) (inp : Input) (rest : List Input) (b c : Block),
    s.inputs = inp :: rest → step s = .next t →
    s.blocks[inp.block]? = some b → t.blocks[inp.block]? = some c →
    (∀ k r, inp = .command k r → c.init = (b.init || decide (r.cmd = 0x01 ∨ r.cmd = 0x06))) ∧
    ((∀ k r, inp ≠ .command k r) → c.init = false)

/-- R25, R56: every command for an instance that exists gets exactly one response, and moves the host's index on by
exactly one, whether it succeeds or faults. -/
def Obligations.OneResponsePerCommand : Prop :=
  ∀ (s : State) (b : Block) (k : Nat) (r : Request) (rest : List Input),
    s.inputs = .command k r :: rest → s.blocks[k]? = some b →
    ∃ (t : State) (c : Block) (a : Response), step s = .next t ∧ t.blocks[k]? = some c ∧
      c.responses = b.responses ++ [a] ∧ c.index = b.index + 1 ∧ t.inputs = rest

/-- The frame of every command (R21, R34): other instances, the driven interface, the host's list and the reset
counter are unchanged. A completed SEED or LOAD leaves `faults`; a completed NEXT or jump leaves `init` and `faults`;
READ leaves the pair and `init`, completed or not. There is no memory. -/
def Obligations.CommandsLeaveTheRest : Prop :=
  ∀ (i : Instr) (s t : State) (b c : Block), s.blocks[s.port]? = some b →
    exec i s = .next t → t.blocks[s.port]? = some c →
    t.port = s.port ∧ t.inputs = s.inputs ∧ t.blocks.length = s.blocks.length ∧
    (∀ j, j ≠ s.port → t.blocks[j]? = s.blocks[j]?) ∧
    c.resets = b.resets ∧
    (∀ v, i = .seed v → c.faults = b.faults) ∧
    (∀ x y, i = .load x y → c.faults = b.faults) ∧
    (i ∈ [Instr.next, .jump32, .jump64, .jump96] → b.init = true → c.init = true ∧ c.faults = b.faults) ∧
    (i = .read → c.gen = b.gen ∧ c.init = b.init) ∧
    (i = .read → b.init = true → c.faults = b.faults) ∧
    (i ∈ [Instr.next, .jump32, .jump64, .jump96] → b.init = false → c.gen = b.gen ∧ c.init = false)

/-- R21's columns of reads: SEED and LOAD read neither the pair nor `init`, so instances that differ only there are
left the same by them. -/
def Obligations.SeedAndLoadReadNothing : Prop :=
  ∀ (s s' : State) (b : Block) (g : Gen) (ini : Bool) (v x y : Word),
    s.blocks[s.port]? = some b →
    s' = { s with blocks := s.blocks.set s.port { b with gen := g, init := ini } } →
    (∃ t, exec (.seed v) s = .next t ∧ exec (.seed v) s' = .next t) ∧
    (∃ t, exec (.load x y) s = .next t ∧ exec (.load x y) s' = .next t)

/-- R34, R51, R166, R177 and log entries 3, 9 and 10: two requests in flight have no step; any other input, a request, a
RESET or a loss of power, for an interface no instance has is a fault; with nothing left to deliver the machine waits
unchanged. -/
def Obligations.StopsAndWaiting : Prop :=
  (∀ (s : State) (k : Nat) (r r' : Request) (rest : List Input),
    s.inputs = .overlap k r r' :: rest → step s = .refused .concurrentRequest) ∧
  (∀ (s : State) (inp : Input) (rest : List Input),
    s.inputs = inp :: rest → (∀ k r r', inp ≠ .overlap k r r') → s.blocks.length ≤ inp.block →
    step s = .fault .noSuchBlock) ∧
  (∀ s : State, s.inputs = [] → step s = .next s)

/-- The machine's invariant holds after reset (R25, R32, R33). -/
def Obligations.ResetMeetsInvariant : Prop :=
  State.reset.Inv ∧ State.reset.NonDegenerate ∧ ∀ n : Nat, 0 < n → (State.resetOf n).Inv

/-- Every step keeps the invariant (R22, R25, R56, R61, R151, R155, R156): the index counts the responses, there is one
fault for each response with ERR, such a response carries zeros, a fault's CMD fits its kind, and `init` is set exactly
when some command of the run has completed. That every kind of reset starts a new run, with an empty record, is R176
and log entries 7 and 8. -/
def Obligations.StepKeepsInvariant : Prop :=
  ∀ s t : State, s.Inv → step s = .next t → t.Inv

/-- R103, R118, R137 together (C2): as long as the host sends no LOAD of (0, 0), no step takes a machine without
degenerate instances to one that has any. -/
def Obligations.StepKeepsNonDegenerate : Prop :=
  ∀ s t : State, s.NonDegenerate → (∀ inp ∈ s.inputs, inp.loadsZero = false) → step s = .next t →
    t.NonDegenerate ∧ ∀ inp ∈ t.inputs, inp.loadsZero = false

/-- R22, R23: what the registers hold while `init = 0` can never be seen. Two machines that differ only there take the
same kind of step, and again differ only there. -/
def Obligations.UninitialisedContentsAreInvisible : Prop :=
  ∀ s s' : State, s.SameVisible s' →
    (∃ t t', step s = .next t ∧ step s' = .next t' ∧ t.SameVisible t') ∨
    (∃ f, step s = .fault f ∧ step s' = .fault f) ∨
    (∃ r, step s = .refused r ∧ step s' = .refused r)

/-! ### Outside the block -/

/-- R35, R42: the stored form is sixteen bytes, s0 then s1, each word in the host's byte order, whichever it is; and
restoring it gives the pair back bit for bit. -/
def Obligations.StoredStateRestoresExactly : Prop :=
  (∀ (order : ByteOrder) (g : Gen), restoreGen order (storeGen order g) = some g) ∧
  (∀ (order : ByteOrder) (g : Gen), (storeGen order g).length = 16) ∧
  (∀ (g : Gen) (i : Nat), i < 8 →
    (storeGen .little g)[i]? = some (g.s0.extractLsb' (8 * i) 8) ∧
    (storeGen .little g)[8 + i]? = some (g.s1.extractLsb' (8 * i) 8) ∧
    (storeGen .big g)[7 - i]? = some (g.s0.extractLsb' (8 * i) 8) ∧
    (storeGen .big g)[15 - i]? = some (g.s1.extractLsb' (8 * i) 8))

/-- R68: a line is refused exactly when one of its numbers is out of range; otherwise it stands for the request of its
row of the table, with the ignored ports driven to 0, and that request is the encoder's; the raw form stands for any
request. -/
def Obligations.AssemblerLinesStandForRequests : Prop :=
  (∀ n : Nat, (assemble (.seed n) = none ↔ 2 ^ 64 ≤ n)) ∧
  (∀ m n : Nat, (assemble (.load m n) = none ↔ 2 ^ 64 ≤ m ∨ 2 ^ 64 ≤ n)) ∧
  (∀ c m n : Nat, (assemble (.raw c m n) = none ↔ 2 ^ 8 ≤ c ∨ 2 ^ 64 ≤ m ∨ 2 ^ 64 ≤ n)) ∧
  (∀ v : Word, assemble (.seed v.toNat) = some ⟨0x01, v, 0⟩ ∧ encode (.seed v) = ⟨0x01, v, 0⟩) ∧
  (assemble .next = some ⟨0x02, 0, 0⟩ ∧ encode .next = ⟨0x02, 0, 0⟩) ∧
  (assemble .jump32 = some ⟨0x03, 0, 0⟩ ∧ encode .jump32 = ⟨0x03, 0, 0⟩) ∧
  (assemble .jump64 = some ⟨0x04, 0, 0⟩ ∧ encode .jump64 = ⟨0x04, 0, 0⟩) ∧
  (assemble .jump96 = some ⟨0x05, 0, 0⟩ ∧ encode .jump96 = ⟨0x05, 0, 0⟩) ∧
  (∀ x y : Word, assemble (.load x.toNat y.toNat) = some ⟨0x06, x, y⟩ ∧ encode (.load x y) = ⟨0x06, x, y⟩) ∧
  (assemble .read = some ⟨0x07, 0, 0⟩ ∧ encode .read = ⟨0x07, 0, 0⟩) ∧
  (∀ i : Instr, decode (encode i) = .op i) ∧
  (∀ r : Request, assemble (.raw r.cmd.toNat r.din0.toNat r.din1.toNat) = some r)
end

