-- ==== Sys2Proof/Laws/Datapath.lean ====
section
/-! SUPPORT. The small lemmas of the datapath: states under XOR, powers of T, the engine's loop in closed form, and
how two maps that respect XOR are shown equal. -/

namespace Sys2Proof

@[ext] theorem Gen.ext {a b : Gen} (h0 : a.s0 = b.s0) (h1 : a.s1 = b.s1) : a = b := by
  cases a; cases b; simp_all

@[simp] theorem Gen.xor_s0 (a b : Gen) : (Gen.xor a b).s0 = a.s0 ^^^ b.s0 := rfl
@[simp] theorem Gen.xor_s1 (a b : Gen) : (Gen.xor a b).s1 = a.s1 ^^^ b.s1 := rfl
@[simp] theorem Gen.zero_s0 : Gen.zero.s0 = 0 := rfl
@[simp] theorem Gen.zero_s1 : Gen.zero.s1 = 0 := rfl

theorem Gen.xor_comm (a b : Gen) : Gen.xor a b = Gen.xor b a := by
  ext1 <;> simp [BitVec.xor_comm]

theorem Gen.xor_assoc (a b c : Gen) : Gen.xor (Gen.xor a b) c = Gen.xor a (Gen.xor b c) := by
  ext1 <;> simp [BitVec.xor_assoc]

@[simp] theorem Gen.zero_xor (a : Gen) : Gen.xor Gen.zero a = a := by ext1 <;> simp
@[simp] theorem Gen.xor_zero (a : Gen) : Gen.xor a Gen.zero = a := by ext1 <;> simp
@[simp] theorem Gen.xor_self (a : Gen) : Gen.xor a a = Gen.zero := by ext1 <;> simp

@[simp] theorem Gen.sum_nil : Gen.sum [] = Gen.zero := rfl
@[simp] theorem Gen.sum_cons (a : Gen) (gs : List Gen) : Gen.sum (a :: gs) = Gen.xor a (Gen.sum gs) := rfl

theorem Gen.sum_append (xs ys : List Gen) : Gen.sum (xs ++ ys) = Gen.xor (Gen.sum xs) (Gen.sum ys) := by
  induction xs with
  | nil => simp
  | cons a xs ih => simp [ih, Gen.xor_assoc]

namespace Machine

@[simp] theorem transition_s0 (g : Gen) : (transition g).s0 = g.s1 := rfl

theorem transition_s1 (g : Gen) : (transition g).s1 = mix g.s0 ^^^ g.s1 := rfl

@[simp] theorem transitionPow_zero (g : Gen) : transitionPow 0 g = g := rfl

theorem transitionPow_succ (j : Nat) (g : Gen) : transitionPow (j + 1) g = transition (transitionPow j g) := rfl

theorem transitionPow_add (i j : Nat) (g : Gen) : transitionPow (i + j) g = transitionPow i (transitionPow j g) := by
  induction i with
  | zero => simp
  | succ i ih => rw [Nat.succ_add, transitionPow_succ, transitionPow_succ, ih]

/-- The engine's loop over the first `n` bits of a word: the running state has gone on `n` steps, and the accumulator
has taken in the powers whose bit is set. -/
theorem engine_loop (w : Word) (e : Engine) (n : Nat) :
    (List.range n).foldl (engineBit w) e =
      { acc := Gen.xor e.acc
          (Gen.sum (((List.range n).filter (fun b => w.getLsbD b)).map (fun b => transitionPow b e.run)))
        run := transitionPow n e.run } := by
  induction n with
  | zero => simp
  | succ n ih =>
    rw [List.range_succ, List.foldl_append, ih, List.filter_append, List.map_append, Gen.sum_append]
    by_cases h : w.getLsbD n <;> simp [engineBit, h, transitionPow_succ, Gen.xor_assoc]

theorem engineWord_eq (w : Word) (e : Engine) :
    engineWord w e =
      { acc := Gen.xor e.acc
          (Gen.sum (((List.range 64).filter (fun b => w.getLsbD b)).map (fun b => transitionPow b e.run)))
        run := transitionPow 64 e.run } := engine_loop w e 64

/-- The engine over both words, in closed form. -/
theorem jumpPoly_eq (g : Gen) (w0 w1 : Word) :
    jumpPoly g w0 w1 = Gen.xor
      (Gen.sum (((List.range 64).filter (fun b => w0.getLsbD b)).map (fun b => transitionPow b g)))
      (Gen.sum (((List.range 64).filter (fun b => w1.getLsbD b)).map
        (fun b => transitionPow b (transitionPow 64 g)))) := by
  simp only [jumpPoly, engineWord_eq, Gen.zero_xor]

/-- Below bit 64 a polynomial's coefficients are w0's bits (R12, R125). -/
theorem polyOf_getLsbD_low (w0 w1 : Word) {b : Nat} (h : b < 64) :
    (polyOf w0 w1).getLsbD b = w0.getLsbD b := by
  have e := BitVec.getLsbD_append (x := w1) (y := w0) (i := b)
  rw [if_pos h] at e
  exact e

/-- From bit 64 on a polynomial's coefficients are w1's bits (R12, R125). -/
theorem polyOf_getLsbD_high (w0 w1 : Word) (b : Nat) :
    (polyOf w0 w1).getLsbD (64 + b) = w1.getLsbD b := by
  have e := BitVec.getLsbD_append (x := w1) (y := w0) (i := 64 + b)
  rw [if_neg (by omega), Nat.add_sub_cancel_left] at e
  exact e

theorem polyOf_words (p : BitVec 128) : polyOf (polyW0 p) (polyW1 p) = p := by
  apply BitVec.eq_of_getLsbD_eq
  intro i hi
  by_cases h : i < 64
  · rw [polyOf_getLsbD_low _ _ h]
    simp [polyW0, h]
  · obtain ⟨b, rfl⟩ : ∃ b, i = 64 + b := ⟨i - 64, by omega⟩
    rw [polyOf_getLsbD_high]
    simp only [polyW1, BitVec.getLsbD_extractLsb', show b < 64 by omega, decide_true, Bool.true_and]

end Machine

/-- Bits 0 to 63 of the state vector are s0's (R12). -/
theorem Gen.toVec_getLsbD_low (g : Gen) {j : Nat} (h : j < 64) : g.toVec.getLsbD j = g.s0.getLsbD j :=
  Machine.polyOf_getLsbD_low g.s0 g.s1 h

/-- Bits 64 to 127 of the state vector are s1's (R12). -/
theorem Gen.toVec_getLsbD_high (g : Gen) (j : Nat) : g.toVec.getLsbD (64 + j) = g.s1.getLsbD j :=
  Machine.polyOf_getLsbD_high g.s0 g.s1 j

/-- XOR of two states is vector addition (R12). -/
theorem Gen.toVec_xor (a b : Gen) : (Gen.xor a b).toVec = a.toVec ^^^ b.toVec := by
  apply BitVec.eq_of_getLsbD_eq
  intro i _
  by_cases h : i < 64
  · simp only [BitVec.getLsbD_xor, Gen.toVec_getLsbD_low _ h, Gen.xor_s0]
  · obtain ⟨j, rfl⟩ : ∃ j, i = 64 + j := ⟨i - 64, by omega⟩
    simp only [BitVec.getLsbD_xor, Gen.toVec_getLsbD_high, Gen.xor_s1]

/-- A bit vector is its lowest `n` bits, XOR one more bit at a time: what holds of 0, of every single bit, and of the
XOR of two vectors it holds of, holds of every vector. -/
theorem bits_induction {w : Nat} (P : BitVec w → Prop) (zero : P 0) (bit : ∀ i, i < w → P (BitVec.twoPow w i))
    (xor : ∀ x y, P x → P y → P (x ^^^ y)) (x : BitVec w) : P x := by
  have key : ∀ n, n ≤ w → P (x &&& BitVec.ofNat w (2 ^ n - 1)) := by
    intro n
    induction n with
    | zero => intro _; simpa using zero
    | succ n ih =>
      intro hn
      have split : x &&& BitVec.ofNat w (2 ^ (n + 1) - 1) =
          (x &&& BitVec.ofNat w (2 ^ n - 1)) ^^^ (if x.getLsbD n then BitVec.twoPow w n else 0) := by
        apply BitVec.eq_of_getLsbD_eq
        intro i hi
        simp only [BitVec.getLsbD_and, BitVec.getLsbD_xor, BitVec.getLsbD_ofNat, Nat.testBit_two_pow_sub_one, hi,
          decide_true, Bool.true_and]
        by_cases h : x.getLsbD n <;> simp only [h, if_true, if_false, Bool.false_eq_true]
        · rcases Nat.lt_trichotomy i n with g | g | g
          · simp [g, hi, Nat.lt_succ_of_lt g, Nat.ne_of_lt g]
          · subst g; simp [h, hi]
          · simp [hi, Nat.not_lt.mpr (Nat.le_of_lt g), Nat.not_lt.mpr (Nat.succ_le_of_lt g), Nat.ne_of_gt g]
        · rcases Nat.lt_trichotomy i n with g | g | g
          · simp [g, Nat.lt_succ_of_lt g]
          · subst g; simp [h]
          · simp [Nat.not_lt.mpr (Nat.le_of_lt g), Nat.not_lt.mpr (Nat.succ_le_of_lt g)]
      rw [split]
      refine xor _ _ (ih (by omega)) ?_
      split
      · exact bit n (by omega)
      · exact zero
  have full : x &&& BitVec.ofNat w (2 ^ w - 1) = x := by
    apply BitVec.eq_of_getLsbD_eq
    intro i hi
    simp only [BitVec.getLsbD_and, BitVec.getLsbD_ofNat, Nat.testBit_two_pow_sub_one, hi, decide_true,
      Bool.and_true]
  exact full ▸ key w (Nat.le_refl w)

end Sys2Proof
end

