-- ==== Sys2Proof/Laws/Decode.lean ====
section
/-! SUPPORT. What decoding does, by CMD byte. -/

namespace Sys2Proof

/-- A request whose CMD has RSV = 00000 and a named OP is legal, whatever its operands (R65). -/
theorem wellFormed_of_cmd {r : Request} (c : Cmd) (h : r.cmd = c)
    (hc : (c.extractLsb' 3 5 == 0 && c.extractLsb' 0 3 != 0) = true) : r.wellFormed = true := by
  subst h; exact hc

/-- The CMD byte does not depend on SEED's operand. -/
theorem cmdOf_seed (v : Word) : cmdOf (.seed v) = 0x01 := by simp only [cmdOf, Instr.opCode]; rfl

/-- The CMD byte does not depend on LOAD's operands. -/
theorem cmdOf_load (a b : Word) : cmdOf (.load a b) = 0x06 := by simp only [cmdOf, Instr.opCode]; rfl

variable {r : Request}

theorem decode_0x01 (h : r.cmd = 0x01) : decode r = .op (.seed r.din0) := by
  simp [decode, Request.rsv, Request.op, Request.seedValue, h]

theorem decode_0x02 (h : r.cmd = 0x02) : decode r = .op .next := by
  simp [decode, Request.rsv, Request.op, h]

theorem decode_0x03 (h : r.cmd = 0x03) : decode r = .op .jump32 := by
  simp [decode, Request.rsv, Request.op, h]

theorem decode_0x04 (h : r.cmd = 0x04) : decode r = .op .jump64 := by
  simp [decode, Request.rsv, Request.op, h]

theorem decode_0x05 (h : r.cmd = 0x05) : decode r = .op .jump96 := by
  simp [decode, Request.rsv, Request.op, h]

theorem decode_0x06 (h : r.cmd = 0x06) : decode r = .op (.load r.din0 r.din1) := by
  simp [decode, Request.rsv, Request.op, Request.newS0, Request.newS1, h]

theorem decode_0x07 (h : r.cmd = 0x07) : decode r = .op .read := by
  simp [decode, Request.rsv, Request.op, h]

theorem decode_illegal_of_rsv (h : r.cmd.extractLsb' 3 5 ≠ 0) : decode r = .illegal := if_pos h

theorem decode_illegal_of_op (h : r.cmd.extractLsb' 0 3 = 0) : decode r = .illegal := by
  have h' : r.op = 0b000 := h
  simp [decode, h']

/-- The kind of command a CMD byte names depends on that byte alone: it is one of the seven, or the request is
illegal. -/
theorem decode_cases (r : Request) :
    r.cmd = 0x01 ∨ r.cmd = 0x02 ∨ r.cmd = 0x03 ∨ r.cmd = 0x04 ∨ r.cmd = 0x05 ∨ r.cmd = 0x06 ∨ r.cmd = 0x07 ∨
      decode r = .illegal := by
  have key : ∀ c : Cmd, c = 0x01 ∨ c = 0x02 ∨ c = 0x03 ∨ c = 0x04 ∨ c = 0x05 ∨ c = 0x06 ∨ c = 0x07 ∨
      (c.extractLsb' 3 5 ≠ 0 ∨ c.extractLsb' 0 3 = 0) := by decide
  rcases key r.cmd with h | h | h | h | h | h | h | h | h
  · exact .inl h
  · exact .inr (.inl h)
  · exact .inr (.inr (.inl h))
  · exact .inr (.inr (.inr (.inl h)))
  · exact .inr (.inr (.inr (.inr (.inl h))))
  · exact .inr (.inr (.inr (.inr (.inr (.inl h)))))
  · exact .inr (.inr (.inr (.inr (.inr (.inr (.inl h))))))
  · exact .inr (.inr (.inr (.inr (.inr (.inr (.inr (decode_illegal_of_rsv h)))))))
  · exact .inr (.inr (.inr (.inr (.inr (.inr (.inr (decode_illegal_of_op h)))))))

end Sys2Proof
end

