-- ==== Sys2Proof/Laws/State.lean ====
section
/-! SUPPORT. One lemma per field per update of an instance and of the machine, so that no later proof unfolds a
record update. -/

namespace Sys2Proof.Machine

variable (b : Block) (s : State)

@[simp] theorem Block.respond_gen (r : Response) : (b.respond r).gen = b.gen := rfl
@[simp] theorem Block.respond_init (r : Response) : (b.respond r).init = b.init := rfl
@[simp] theorem Block.respond_faults (r : Response) : (b.respond r).faults = b.faults := rfl
@[simp] theorem Block.respond_responses (r : Response) : (b.respond r).responses = b.responses ++ [r] := rfl
@[simp] theorem Block.respond_index (r : Response) : (b.respond r).index = b.index + 1 := rfl
@[simp] theorem Block.respond_resets (r : Response) : (b.respond r).resets = b.resets := rfl

@[simp] theorem Block.write_gen (g : Gen) : (b.write g).gen = g := rfl
@[simp] theorem Block.write_init (g : Gen) : (b.write g).init = b.init := rfl
@[simp] theorem Block.write_faults (g : Gen) : (b.write g).faults = b.faults := rfl
@[simp] theorem Block.write_responses (g : Gen) : (b.write g).responses = b.responses := rfl
@[simp] theorem Block.write_index (g : Gen) : (b.write g).index = b.index := rfl
@[simp] theorem Block.write_resets (g : Gen) : (b.write g).resets = b.resets := rfl

@[simp] theorem Block.assign_gen (g : Gen) : (b.assign g).gen = g := rfl
@[simp] theorem Block.assign_init (g : Gen) : (b.assign g).init = true := rfl
@[simp] theorem Block.assign_faults (g : Gen) : (b.assign g).faults = b.faults := rfl
@[simp] theorem Block.assign_responses (g : Gen) : (b.assign g).responses = b.responses := rfl
@[simp] theorem Block.assign_index (g : Gen) : (b.assign g).index = b.index := rfl
@[simp] theorem Block.assign_resets (g : Gen) : (b.assign g).resets = b.resets := rfl

@[simp] theorem Block.raiseFault_gen (kind : FaultKind) (info : Cmd) : (b.raiseFault kind info).gen = b.gen := rfl
@[simp] theorem Block.raiseFault_init (kind : FaultKind) (info : Cmd) : (b.raiseFault kind info).init = b.init := rfl
@[simp] theorem Block.raiseFault_faults (kind : FaultKind) (info : Cmd) : (b.raiseFault kind info).faults = b.faults ++ [{ kind := kind, info := info }] := rfl
@[simp] theorem Block.raiseFault_responses (kind : FaultKind) (info : Cmd) : (b.raiseFault kind info).responses = b.responses ++ [Response.faulted] := rfl
@[simp] theorem Block.raiseFault_index (kind : FaultKind) (info : Cmd) : (b.raiseFault kind info).index = b.index + 1 := rfl
@[simp] theorem Block.raiseFault_resets (kind : FaultKind) (info : Cmd) : (b.raiseFault kind info).resets = b.resets := rfl

@[simp] theorem Block.restart_gen (k : Nat) : (b.restart k).gen = { s0 := Config.flopS0 k (b.resets + 1), s1 := Config.flopS1 k (b.resets + 1) } := rfl
@[simp] theorem Block.restart_init (k : Nat) : (b.restart k).init = false := rfl
@[simp] theorem Block.restart_faults (k : Nat) : (b.restart k).faults = [] := rfl
@[simp] theorem Block.restart_responses (k : Nat) : (b.restart k).responses = [] := rfl
@[simp] theorem Block.restart_index (k : Nat) : (b.restart k).index = 0 := rfl
@[simp] theorem Block.restart_resets (k : Nat) : (b.restart k).resets = b.resets + 1 := rfl

@[simp] theorem State.drive_blocks (k : Nat) : (s.drive k).blocks = s.blocks := rfl
@[simp] theorem State.drive_port (k : Nat) : (s.drive k).port = k := rfl
@[simp] theorem State.drive_inputs (k : Nat) : (s.drive k).inputs = s.inputs := rfl

@[simp] theorem State.withInputs_blocks (rest : List Input) : (s.withInputs rest).blocks = s.blocks := rfl
@[simp] theorem State.withInputs_port (rest : List Input) : (s.withInputs rest).port = s.port := rfl
@[simp] theorem State.withInputs_inputs (rest : List Input) : (s.withInputs rest).inputs = rest := rfl

@[simp] theorem Block.atReset_init (k n : Nat) : (Block.atReset k n).init = false := rfl
@[simp] theorem Block.atReset_faults (k n : Nat) : (Block.atReset k n).faults = [] := rfl
@[simp] theorem Block.atReset_responses (k n : Nat) : (Block.atReset k n).responses = [] := rfl
@[simp] theorem Block.atReset_index (k n : Nat) : (Block.atReset k n).index = 0 := rfl
@[simp] theorem Block.atReset_resets (k n : Nat) : (Block.atReset k n).resets = n := rfl

@[simp] theorem State.resetOf_port (n : Nat) : (State.resetOf n).port = 0 := rfl
@[simp] theorem State.resetOf_inputs (n : Nat) : (State.resetOf n).inputs = [] := rfl
@[simp] theorem State.resetOf_blocks (n : Nat) : (State.resetOf n).blocks = Block.allAtReset 0 n := rfl

@[simp] theorem Response.done_err : Response.done.err = false := rfl
@[simp] theorem Response.value_err (out : Word) : (Response.value out).err = false := rfl
@[simp] theorem Response.pair_err (g : Gen) : (Response.pair g).err = false := rfl
@[simp] theorem Response.faulted_err : Response.faulted.err = true := rfl

theorem Block.allAtReset_length (first n : Nat) : (Block.allAtReset first n).length = n := by
  induction n generalizing first with
  | zero => rfl
  | succ n ih => simp [Block.allAtReset, ih]

theorem Block.allAtReset_getElem? (first n k : Nat) (h : k < n) :
    (Block.allAtReset first n)[k]? = some (Block.atReset (first + k) 0) := by
  induction n generalizing first k with
  | zero => omega
  | succ n ih =>
    cases k with
    | zero => simp [Block.allAtReset]
    | succ k =>
      rw [Block.allAtReset, List.getElem?_cons_succ, ih (first + 1) k (by omega)]
      congr 2; omega

end Sys2Proof.Machine
end

