-- ==== Sys2Proof/Laws/Ops.lean ====
section
/-! SUPPORT. What each shared operation can do, said once: acting on the driven instance, reading under `init`,
dispatching, delivering an input, one step. Later proofs cite these and unfold nothing. -/

namespace Sys2Proof.Machine

/-! ### Acting on the driven instance -/

theorem State.onPort_some {s : State} {b : Block} (f : Block → Block) (h : s.blocks[s.port]? = some b) :
    s.onPort f = .next { s with blocks := s.blocks.set s.port (f b) } := by
  simp [State.onPort, h]

theorem State.onPort_none {s : State} (f : Block → Block) (h : s.blocks.length ≤ s.port) :
    s.onPort f = .fault .noSuchBlock := by
  simp [State.onPort, List.getElem?_eq_none h]

/-- All that `onPort` can answer with a next state. -/
theorem State.onPort_next {s t : State} {f : Block → Block} :
    s.onPort f = .next t ↔
      ∃ b, s.blocks[s.port]? = some b ∧ t = { s with blocks := s.blocks.set s.port (f b) } := by
  unfold State.onPort
  split
  · next b h => simp [h, eq_comm]
  · next h => simp [h]

theorem State.onPort_ne_refused {s : State} {f : Block → Block} {r : Refusal} : s.onPort f ≠ .refused r := by
  unfold State.onPort
  split <;> simp

/-- Two actions that agree on the driven instance give the same outcome. -/
theorem State.onPort_congr {s : State} {f g : Block → Block} (h : ∀ b, s.blocks[s.port]? = some b → f b = g b) :
    s.onPort f = s.onPort g := by
  unfold State.onPort
  split
  · next b hb => rw [h b hb]
  · rfl

/-! ### Commands that read the state -/

theorem Block.reading_init {b : Block} (cmd : Cmd) (body : Gen → Block → Block) (h : b.init = true) :
    b.reading cmd body = body b.gen b := by
  simp [Block.reading, h]

theorem Block.reading_not_init {b : Block} (cmd : Cmd) (body : Gen → Block → Block) (h : b.init = false) :
    b.reading cmd body = b.raiseFault .uninitialised cmd := by
  simp [Block.reading, h]

/-! ### Dispatch: what each command does to the instance -/

/-- The action of each command on the instance that takes it. -/
def Block.effect (i : Instr) (b : Block) : Block :=
  match i with
  | .seed v => (b.assign (seedState v)).respond Response.done
  | .next => b.reading (cmdOf .next) fun g b => (b.write (transition g)).respond (Response.value (output g))
  | .jump32 => b.reading (cmdOf .jump32) fun g b => (b.write (jumpPoly g j32W0 j32W1)).respond Response.done
  | .jump64 => b.reading (cmdOf .jump64) fun g b => (b.write (jumpClosed64 g)).respond Response.done
  | .jump96 => b.reading (cmdOf .jump96) fun g b => (b.write (jumpPoly g j96W0 j96W1)).respond Response.done
  | .load x y => (b.assign { s0 := x, s1 := y }).respond Response.done
  | .read => b.reading (cmdOf .read) fun g b => b.respond (Response.pair g)

/-- Every command is an action on the driven instance. -/
theorem exec_eq_onPort (i : Instr) (s : State) : exec i s = s.onPort (Block.effect i) := by
  cases i <;> rfl

/-- The action of a request on the instance that takes it, legal or not. -/
def Block.take (req : Request) (b : Block) : Block :=
  match decode req with
  | .op i => b.effect i
  | .illegal => b.raiseFault .illegalCommand req.cmd

/-- Every request is an action on the driven instance. -/
theorem State.issue_eq_onPort (req : Request) (s : State) : s.issue req = s.onPort (Block.take req) := by
  cases h : decode req with
  | op i =>
    have ht : Block.take req = Block.effect i := by funext b; simp only [Block.take, h]
    simp only [State.issue, h, exec_eq_onPort, ht]
  | illegal =>
    have ht : Block.take req = Block.raiseFault .illegalCommand req.cmd := by funext b; simp only [Block.take, h]
    simp only [State.issue, h, ht]

/-! ### Inputs and steps -/

/-- The action of an input on its instance; none for the input that is refused. -/
def Input.action : Input → Option (Block → Block)
  | .command _ req => some (Block.take req)
  | .reset k => some (Block.restart k)
  | .resetDuring k _ => some (Block.restart k)
  | .powerLoss k => some (Block.restart k)
  | .overlap _ _ _ => none

theorem State.deliver_eq (inp : Input) (s : State) :
    s.deliver inp = match inp.action with
      | some f => (s.drive inp.block).onPort f
      | none => .refused .concurrentRequest := by
  cases inp <;> simp [State.deliver, Input.action, Input.block, State.issue_eq_onPort]

theorem step_idle {s : State} (h : s.inputs = []) : step s = .next s := by
  simp [step, State.deliverNext, h]

theorem step_deliver {s : State} {inp : Input} {rest : List Input} (h : s.inputs = inp :: rest) :
    step s = (s.withInputs rest).deliver inp := by
  simp [step, State.deliverNext, h]

/-- Everything a step that answers a next state can have done: nothing, with the host's list empty; or one input,
taken off the list, whose action the instance it is for has taken. -/
theorem step_cases {s t : State} (h : step s = .next t) :
    (s.inputs = [] ∧ t = s) ∨
    ∃ inp rest f b, s.inputs = inp :: rest ∧ inp.action = some f ∧ s.blocks[inp.block]? = some b ∧
      t = { blocks := s.blocks.set inp.block (f b), port := inp.block, inputs := rest } := by
  cases hi : s.inputs with
  | nil => rw [step_idle hi] at h; exact .inl ⟨rfl, by simpa using h.symm⟩
  | cons inp rest =>
    rw [step_deliver hi, State.deliver_eq] at h
    split at h
    · next f hf =>
      obtain ⟨b, hb, rfl⟩ := State.onPort_next.mp h
      exact .inr ⟨inp, rest, f, b, rfl, hf, hb, rfl⟩
    · simp at h

/-- A step over a command for an instance that exists. -/
theorem step_command {s : State} {k : Nat} {req : Request} {rest : List Input} {b : Block}
    (hi : s.inputs = .command k req :: rest) (hb : s.blocks[k]? = some b) :
    step s = .next { blocks := s.blocks.set k (b.take req), port := k, inputs := rest } := by
  rw [step_deliver hi, State.deliver_eq]
  exact State.onPort_some (s := (s.withInputs rest).drive k) _ hb

/-! ### What an action leaves of an instance's record -/

/-- A record that has grown by one response. -/
def Block.Answered (b c : Block) : Prop :=
  ∃ r, c.responses = b.responses ++ [r] ∧ c.index = b.index + 1 ∧ c.resets = b.resets

theorem Block.raiseFault_answered (kind : FaultKind) (info : Cmd) (b : Block) :
    b.Answered (b.raiseFault kind info) := ⟨Response.faulted, rfl, rfl, rfl⟩

theorem Block.reading_answered {b : Block} (cmd : Cmd) {body : Gen → Block → Block}
    (h : b.Answered (body b.gen b)) : b.Answered (b.reading cmd body) := by
  unfold Block.reading
  split
  · exact h
  · exact b.raiseFault_answered _ _

/-- Every command ends in exactly one response, and the index goes on by one. -/
theorem Block.effect_answered (i : Instr) (b : Block) : b.Answered (b.effect i) := by
  cases i with
  | seed v => exact ⟨Response.done, by simp [Block.effect]⟩
  | load x y => exact ⟨Response.done, by simp [Block.effect]⟩
  | next => exact Block.reading_answered _ ⟨(Response.value (output b.gen)), by simp⟩
  | jump32 => exact Block.reading_answered _ ⟨Response.done, by simp⟩
  | jump64 => exact Block.reading_answered _ ⟨Response.done, by simp⟩
  | jump96 => exact Block.reading_answered _ ⟨Response.done, by simp⟩
  | read => exact Block.reading_answered _ ⟨(Response.pair b.gen), by simp⟩

/-- Every request, legal or not, ends in exactly one response. -/
theorem Block.take_answered (req : Request) (b : Block) : b.Answered (b.take req) := by
  unfold Block.take
  split
  · exact b.effect_answered _
  · exact b.raiseFault_answered _ _

/-- What a command that reads the state does to an instance that holds none. -/
theorem Block.effect_uninitialised {i : Instr} {b : Block} (hb : b.init = false)
    (hs : ∀ v, i ≠ .seed v) (hl : ∀ x y, i ≠ .load x y) :
    b.effect i = b.raiseFault .uninitialised (cmdOf i) := by
  cases i with
  | seed v => exact absurd rfl (hs v)
  | load x y => exact absurd rfl (hl x y)
  | next => simp only [Block.effect, Block.reading_not_init _ _ hb]
  | jump32 => simp only [Block.effect, Block.reading_not_init _ _ hb]
  | jump64 => simp only [Block.effect, Block.reading_not_init _ _ hb]
  | jump96 => simp only [Block.effect, Block.reading_not_init _ _ hb]
  | read => simp only [Block.effect, Block.reading_not_init _ _ hb]

end Sys2Proof.Machine
end

