-- ==== Sys2Proof/Laws/PerInstr.lean ====
section
/-! SUPPORT. Statements about every command as syntax, one lemma per constructor. -/

namespace Sys2Proof.Laws.LegalEncoding

/-- The request that encodes a command has RSV = 00000 and an OP that is not reserved (R57, R58, R63). -/
def Statement (i : Instr) : Prop := (encode i).wellFormed = true ∧ i.wellFormed = true

theorem seed (v : Word) : Statement (.seed v) := ⟨wellFormed_of_cmd 0x01 (cmdOf_seed v) (by decide), rfl⟩
theorem next : Statement .next := ⟨wellFormed_of_cmd _ rfl (by decide), rfl⟩
theorem jump32 : Statement .jump32 := ⟨wellFormed_of_cmd _ rfl (by decide), rfl⟩
theorem jump64 : Statement .jump64 := ⟨wellFormed_of_cmd _ rfl (by decide), rfl⟩
theorem jump96 : Statement .jump96 := ⟨wellFormed_of_cmd _ rfl (by decide), rfl⟩
theorem load (a b : Word) : Statement (.load a b) := ⟨wellFormed_of_cmd 0x06 (cmdOf_load a b) (by decide), rfl⟩
theorem read : Statement .read := ⟨wellFormed_of_cmd _ rfl (by decide), rfl⟩

end Sys2Proof.Laws.LegalEncoding
end

