-- ==== Sys2Proof/Laws/Run.lean ====
section
/-! SUPPORT. Runs: one induction over a list of requests to one instance, for all the statements that need one. -/

namespace Sys2Proof.Machine

/-- What a list of requests does to the instance that takes them, first one first (R49). -/
def Block.takeAll (reqs : List Request) (b : Block) : Block := reqs.foldl (fun b r => b.take r) b

@[simp] theorem Block.takeAll_nil (b : Block) : b.takeAll [] = b := rfl

@[simp] theorem Block.takeAll_cons (r : Request) (reqs : List Request) (b : Block) :
    b.takeAll (r :: reqs) = (b.take r).takeAll reqs := rfl

theorem Block.takeAll_append (xs ys : List Request) (b : Block) :
    b.takeAll (xs ++ ys) = (b.takeAll xs).takeAll ys := by
  simp [Block.takeAll]

theorem run_zero (s : State) : Sys2Proof.core.run 0 s = .next s := rfl

theorem run_succ {s t : State} (n : Nat) (h : step s = .next t) :
    Sys2Proof.core.run (n + 1) s = Sys2Proof.core.run n t := by
  have hs : Sys2Proof.core.step s = .next t := h
  simp only [Host.Core.run, hs]

/-- A run over requests to one instance that exists answers a next state, in which that instance has taken them in
order, every other instance is as it was, and the host's list has lost them. -/
theorem run_commands (reqs : List Request) (rest : List Input) (s : State) (k : Nat) (b : Block)
    (hi : s.inputs = reqs.map (Input.command k) ++ rest) (hb : s.blocks[k]? = some b) :
    ∃ t : State, Sys2Proof.core.run reqs.length s = .next t ∧ t.blocks = s.blocks.set k (b.takeAll reqs) ∧
      t.inputs = rest := by
  have hk : k < s.blocks.length := (List.getElem?_eq_some_iff.mp hb).1
  induction reqs generalizing s b with
  | nil =>
    refine ⟨s, rfl, ?_, by simpa using hi⟩
    obtain ⟨h, rfl⟩ := List.getElem?_eq_some_iff.mp hb
    simp
  | cons r reqs ih =>
    have h1 := step_command (req := r) (rest := reqs.map (Input.command k) ++ rest) hi hb
    rw [List.length_cons, run_succ _ h1]
    obtain ⟨t, ht, hbl, hin⟩ := ih
      { blocks := s.blocks.set k (b.take r), port := k, inputs := reqs.map (Input.command k) ++ rest }
      (b.take r) rfl (by simp [hk]) (by simpa using hk)
    exact ⟨t, ht, by simpa using hbl, hin⟩

/-- What `run_commands` says of the instance itself. -/
theorem run_commands_block (reqs : List Request) (rest : List Input) (s : State) (k : Nat) (b : Block)
    (hi : s.inputs = reqs.map (Input.command k) ++ rest) (hb : s.blocks[k]? = some b) :
    ∃ t : State, Sys2Proof.core.run reqs.length s = .next t ∧ t.blocks[k]? = some (b.takeAll reqs) ∧
      t.inputs = rest := by
  have hk : k < s.blocks.length := (List.getElem?_eq_some_iff.mp hb).1
  obtain ⟨t, ht, hbl, hin⟩ := run_commands reqs rest s k b hi hb
  exact ⟨t, ht, by simp [hbl, hk], hin⟩

end Sys2Proof.Machine
end

