-- ==== Sys2Proof/Laws/Take.lean ====
section
/-! SUPPORT. What an instance does with a request, by CMD byte. -/

namespace Sys2Proof.Machine

variable {r : Request} {b : Block}

theorem Block.take_of_op {i : Instr} (h : decode r = .op i) : b.take r = b.effect i := by
  simp only [Block.take, h]

theorem Block.take_of_illegal (h : decode r = .illegal) : b.take r = b.raiseFault .illegalCommand r.cmd := by
  simp only [Block.take, h]

theorem Block.take_seed (h : r.cmd = 0x01) :
    b.take r = (b.assign (seedState r.din0)).respond Response.done := Block.take_of_op (decode_0x01 h)

theorem Block.take_load (h : r.cmd = 0x06) :
    b.take r = (b.assign { s0 := r.din0, s1 := r.din1 }).respond Response.done := Block.take_of_op (decode_0x06 h)

theorem Block.take_next (h : r.cmd = 0x02) (hb : b.init = true) :
    b.take r = (b.write (transition b.gen)).respond (Response.value (output b.gen)) := by
  rw [Block.take_of_op (decode_0x02 h), Block.effect, Block.reading_init _ _ hb]

theorem Block.take_jump32 (h : r.cmd = 0x03) (hb : b.init = true) :
    b.take r = (b.write (jumpPoly b.gen j32W0 j32W1)).respond Response.done := by
  rw [Block.take_of_op (decode_0x03 h), Block.effect, Block.reading_init _ _ hb]

theorem Block.take_jump64 (h : r.cmd = 0x04) (hb : b.init = true) :
    b.take r = (b.write (jumpClosed64 b.gen)).respond Response.done := by
  rw [Block.take_of_op (decode_0x04 h), Block.effect, Block.reading_init _ _ hb]

theorem Block.take_jump96 (h : r.cmd = 0x05) (hb : b.init = true) :
    b.take r = (b.write (jumpPoly b.gen j96W0 j96W1)).respond Response.done := by
  rw [Block.take_of_op (decode_0x05 h), Block.effect, Block.reading_init _ _ hb]

theorem Block.take_read (h : r.cmd = 0x07) (hb : b.init = true) :
    b.take r = b.respond (Response.pair b.gen) := by
  rw [Block.take_of_op (decode_0x07 h), Block.effect, Block.reading_init _ _ hb]

/-- While the state has no value, every legal request but SEED and LOAD faults, with its own CMD byte. -/
theorem Block.take_uninitialised (hl : decode r ≠ .illegal) (h1 : r.cmd ≠ 0x01) (h6 : r.cmd ≠ 0x06)
    (hb : b.init = false) : b.take r = b.raiseFault .uninitialised r.cmd := by
  have key : ∀ i : Instr, decode r = .op i → cmdOf i = r.cmd → (∀ v, i ≠ .seed v) → (∀ x y, i ≠ .load x y) →
      b.take r = b.raiseFault .uninitialised r.cmd := fun i hd hc hs hx => by
    rw [Block.take_of_op hd, Block.effect_uninitialised hb hs hx, hc]
  rcases decode_cases r with h | h | h | h | h | h | h | h
  · exact absurd h h1
  · exact key _ (decode_0x02 h) (by rw [h]; rfl) (by simp) (by simp)
  · exact key _ (decode_0x03 h) (by rw [h]; rfl) (by simp) (by simp)
  · exact key _ (decode_0x04 h) (by rw [h]; rfl) (by simp) (by simp)
  · exact key _ (decode_0x05 h) (by rw [h]; rfl) (by simp) (by simp)
  · exact absurd h h6
  · exact key _ (decode_0x07 h) (by rw [h]; rfl) (by simp) (by simp)
  · exact absurd h hl

/-- All that a request can do to an instance: complete as one of the seven commands, or fault. -/
theorem Block.take_cases (r : Request) (b : Block) :
    (r.cmd = 0x01 ∧ b.take r = (b.assign (seedState r.din0)).respond Response.done) ∨
    (r.cmd = 0x06 ∧ b.take r = (b.assign { s0 := r.din0, s1 := r.din1 }).respond Response.done) ∨
    (b.init = true ∧ r.cmd = 0x02 ∧
      b.take r = (b.write (transition b.gen)).respond (Response.value (output b.gen))) ∨
    (b.init = true ∧ r.cmd = 0x03 ∧ b.take r = (b.write (jumpPoly b.gen j32W0 j32W1)).respond Response.done) ∨
    (b.init = true ∧ r.cmd = 0x04 ∧ b.take r = (b.write (jumpClosed64 b.gen)).respond Response.done) ∨
    (b.init = true ∧ r.cmd = 0x05 ∧ b.take r = (b.write (jumpPoly b.gen j96W0 j96W1)).respond Response.done) ∨
    (b.init = true ∧ r.cmd = 0x07 ∧ b.take r = b.respond (Response.pair b.gen)) ∨
    (b.init = false ∧ decode r ≠ .illegal ∧ r.cmd ≠ 0x01 ∧ r.cmd ≠ 0x06 ∧
      b.take r = b.raiseFault .uninitialised r.cmd) ∨
    (decode r = .illegal ∧ b.take r = b.raiseFault .illegalCommand r.cmd) := by
  by_cases h1 : r.cmd = 0x01
  · exact .inl ⟨h1, Block.take_seed h1⟩
  by_cases h6 : r.cmd = 0x06
  · exact .inr (.inl ⟨h6, Block.take_load h6⟩)
  by_cases hd : decode r = .illegal
  · exact .inr (.inr (.inr (.inr (.inr (.inr (.inr (.inr ⟨hd, Block.take_of_illegal hd⟩)))))))
  cases hb : b.init
  · exact .inr (.inr (.inr (.inr (.inr (.inr (.inr (.inl
      ⟨rfl, hd, h1, h6, Block.take_uninitialised hd h1 h6 hb⟩)))))))
  rcases decode_cases r with h | h | h | h | h | h | h | h
  · exact absurd h h1
  · exact .inr (.inr (.inl ⟨rfl, h, Block.take_next h hb⟩))
  · exact .inr (.inr (.inr (.inl ⟨rfl, h, Block.take_jump32 h hb⟩)))
  · exact .inr (.inr (.inr (.inr (.inl ⟨rfl, h, Block.take_jump64 h hb⟩))))
  · exact .inr (.inr (.inr (.inr (.inr (.inl ⟨rfl, h, Block.take_jump96 h hb⟩)))))
  · exact absurd h h6
  · exact .inr (.inr (.inr (.inr (.inr (.inr (.inl ⟨rfl, h, Block.take_read h hb⟩))))))
  · exact absurd h hd

end Sys2Proof.Machine
end

