-- ==== Sys2Proof/Tests/Slice0.lean ====
section
/-! SUPPORT. Tests of this model's own work: words written out from the encoding tables (R57, R58), the spec's vectors
(95_test_vectors.md), the checks of WellFormed, and for every statement with hypotheses a witness that meets them. -/

namespace Sys2Proof.Tests

open Sys2Proof.Machine

set_option maxRecDepth 10000

/-! ### Helpers -/

/-- An instance with a given pair and `init`, whose run has just begun. -/
def blk (g : Gen) (init : Bool) : Block :=
  { gen := g, init := init, faults := [], responses := [], index := 0, resets := 0 }

/-- A machine of two instances: `b`, whose interface is driven, and one that holds (7, 8). -/
def two (b : Block) (inputs : List Input) : State :=
  { blocks := [b, blk ⟨7, 8⟩ true], port := 0, inputs := inputs }

/-- A request with both operand ports zero. -/
def req (cmd : Cmd) : Request := { cmd := cmd, din0 := 0, din1 := 0 }

/-- What one step over a request leaves of the first of two instances: the pair, `init`, the faults, the response. -/
def after (b : Block) (r : Request) : Option (Gen × Bool × List FaultRecord × Option Response) :=
  match step (two b [.command 0 r]) with
  | .next t => t.blocks[0]?.map (fun c => (c.gen, c.init, c.faults, c.lastResponse))
  | .fault _ => none
  | .refused _ => none

/-! ### WellFormed: an ill-formed term for each check (R57, R63, R68) -/

theorem test_rsv_refused : (req 0b00001011).wellFormed = false ∧ (req 0b00001011).rsvIsZero = false := by decide
theorem test_op_refused : (req 0b00000000).wellFormed = false ∧ (req 0b00000000).opIsNamed = false := by decide
theorem test_wellFormed_accepts : (req 0b00000011).wellFormed = true := by decide
theorem test_wordNumber_refuses : wordNumber (2 ^ 64) = false ∧ wordNumber (2 ^ 64 - 1) = true := by decide
theorem test_byteNumber_refuses : byteNumber 256 = false ∧ byteNumber 255 = true := by decide
theorem test_asm_refuses : assemble (.seed (2 ^ 64)) = none ∧ assemble (.raw 256 0 0) = none := by decide

/-! ### Decoding: words written out bit by bit (R57, R58); operands in the table's numbering (log entry 15) -/

theorem test_decode_seed : decodeTableWord 8 0b00000001 = some (.seed 0) ∧
    decode ⟨0b00000001, 401, 5⟩ = .op (.seed 401) := by decide
theorem test_decode_next : decodeTableWord 8 0b00000010 = some .next := by decide
theorem test_decode_jump32 : decodeTableWord 8 0b00000011 = some .jump32 := by decide
theorem test_decode_jump64 : decodeTableWord 8 0b00000100 = some .jump64 := by decide
theorem test_decode_jump96 : decodeTableWord 8 0b00000101 = some .jump96 := by decide
theorem test_decode_load : decodeTableWord 8 0b00000110 = some (.load 0 0) ∧
    decodeTableWord 136 0xFEDCBA98765432100123456789ABCDEF06 =
      some (.load 0x0123456789ABCDEF 0xFEDCBA9876543210) := by decide
theorem test_decode_read : decodeTableWord 8 0b00000111 = some .read := by decide
theorem test_decode_illegal : decodeTableWord 8 0x00 = none ∧ decodeTableWord 8 0x08 = none ∧
    decodeTableWord 8 0x0B = none ∧ decodeTableWord 8 0x82 = none ∧ decodeTableWord 8 0xFF = none := by decide

/-! ### One step of each command, on the spec's vectors (95_test_vectors.md) -/

/-- Section 1, row 1. -/
theorem test_seed_401 : after (blk ⟨1, 2⟩ false) ⟨0x01, 401, 9⟩ =
    some (⟨0x6C64F673ED93B6CC, 0x97C703D5F6C9D72B⟩, true, [], some ⟨false, 0, 0⟩) := by decide
/-- Section 3.3, the unique seed with s0 = 0. -/
theorem test_seed_zero_s0 : after (blk ⟨1, 2⟩ true) ⟨0x01, 0x9995B5B621535015, 0⟩ =
    some (⟨0, 0x14057B7EF767814F⟩, true, [], some ⟨false, 0, 0⟩) := by decide
/-- Section 3.4, the row that shows every part of the transition. -/
theorem test_next : after (blk ⟨0x0123456789ABCDEF, 0xFEDCBA9876543210⟩ true) (req 0x02) =
    some (⟨0xFEDCBA9876543210, 0xFA51AF223857F499⟩, true, [], some ⟨false, 0xD98B78E0336E92E8, 0⟩) := by decide
/-- Section 3.4, the sign fill. -/
theorem test_next_sign : after (blk ⟨0x8000000000000000, 0⟩ true) (req 0x02) =
    some (⟨0, 0xFFFFF00000000000⟩, true, [], some ⟨false, 0x0000000010000000, 0⟩) := by decide
/-- Section 1, row 7. -/
theorem test_jump32 : after (blk ⟨0x1FE470A806C38EB1, 0xFAC7289977D6FD63⟩ true) (req 0x03) =
    some (⟨0x985B17ADA536684C, 0x2CECBEFC3FB03DF8⟩, true, [], some ⟨false, 0, 0⟩) := by decide
/-- Section 1, row 8. -/
theorem test_jump64 : after (blk ⟨0x985B17ADA536684C, 0x2CECBEFC3FB03DF8⟩ true) (req 0x04) =
    some (⟨0xB4B7A9519A8655B4, 0x9E93ADBDF62C1596⟩, true, [], some ⟨false, 0, 0⟩) := by decide
/-- Section 1, row 9. -/
theorem test_jump96 : after (blk ⟨0xB4B7A9519A8655B4, 0x9E93ADBDF62C1596⟩ true) (req 0x05) =
    some (⟨0x67EA4FFD18216615, 0x696B13B974BFBFF7⟩, true, [], some ⟨false, 0, 0⟩) := by decide
/-- Section 3.8, first row: which port is which word. -/
theorem test_load : after (blk ⟨1, 2⟩ false) ⟨0x06, 0x0123456789ABCDEF, 0xFEDCBA9876543210⟩ =
    some (⟨0x0123456789ABCDEF, 0xFEDCBA9876543210⟩, true, [], some ⟨false, 0, 0⟩) := by decide
/-- Section 4, P1 row 1. -/
theorem test_read : after (blk ⟨0x6C64F673ED93B6CC, 0x97C703D5F6C9D72B⟩ true) (req 0x07) =
    some (⟨0x6C64F673ED93B6CC, 0x97C703D5F6C9D72B⟩, true, [],
      some ⟨false, 0x6C64F673ED93B6CC, 0x97C703D5F6C9D72B⟩) := by decide

/-! ### Faults (section 3.9) -/

theorem test_next_uninitialised : after (blk ⟨1, 2⟩ false) (req 0x02) =
    some (⟨1, 2⟩, false, [⟨.uninitialised, 0x02⟩], some ⟨true, 0, 0⟩) := by decide
theorem test_read_uninitialised : after (blk ⟨1, 2⟩ false) (req 0x07) =
    some (⟨1, 2⟩, false, [⟨.uninitialised, 0x07⟩], some ⟨true, 0, 0⟩) := by decide
theorem test_illegal_before_uninitialised : after (blk ⟨1, 2⟩ false) ⟨0x0B, 5, 5⟩ =
    some (⟨1, 2⟩, false, [⟨.illegalCommand, 0x0B⟩], some ⟨true, 0, 0⟩) := by decide
theorem test_illegal_keeps_state : after (blk ⟨1, 0⟩ true) ⟨0xFF, 5, 5⟩ =
    some (⟨1, 0⟩, true, [⟨.illegalCommand, 0xFF⟩], some ⟨true, 0, 0⟩) := by decide

/-! ### Datapath vectors (sections 3.1, 3.2, 3.6, 3.7) -/

theorem test_rotl64 : rotl64 0x0123456789ABCDEF 29 = 0xF13579BDE02468AC ∧
    rotl64 0x0123456789ABCDEF 63 = 0x8091A2B3C4D5E6F7 ∧ rotl64 0x0123456789ABCDEF 0 = 0x0123456789ABCDEF := by decide
theorem test_shifts : sar64 0xFEDCBA9876543210 19 = 0xFFFFFFDB97530ECA ∧
    lsr64 0xFEDCBA9876543210 19 = 0x00001FDB97530ECA ∧ shl64 0xC000000000000001 2 = 4 := by decide
theorem test_engine_high_bit : jumpPoly ⟨0x0123456789ABCDEF, 0xFEDCBA9876543210⟩ 0 0x8000000000000000 =
    ⟨0x911F7B6A545C1333, 0xA684B355B0B9573F⟩ := by decide
theorem test_engine_all_bits : jumpPoly ⟨0x0123456789ABCDEF, 0xFEDCBA9876543210⟩ 0xFFFFFFFFFFFFFFFF 0xFFFFFFFFFFFFFFFF =
    ⟨0xC7097BA995E15475, 0x60AE8D9BACF3CEA5⟩ := by decide
theorem test_jump32_ones : jumpPoly ⟨0xFFFFFFFFFFFFFFFF, 0xFFFFFFFFFFFFFFFF⟩ j32W0 j32W1 =
    ⟨0x5CC2FE1D70B62378, 0x5CC2FE1D70B6237B⟩ := by decide
/-- x^128 mod P is P without its leading term (R91). -/
theorem test_xPowModP_128 : xPowModP 128 = charPolyLow := by decide
/-- R8, R12: bit 64 of the state vector is bit 0 of s1. -/
theorem test_toVec : Gen.toVec ⟨0x8000000000000000, 1⟩ = 0x00000000000000018000000000000000 := by decide

/-! ### Fetching, the other interactions, the outside of the block -/

theorem test_fetch_runs_seed : step (State.reset.withFetchWord 8 0x01) = exec (.seed 0) State.reset := rfl
theorem test_fetch_runs_read : step (State.reset.withFetchWord 8 0x07) = exec .read State.reset := rfl
theorem test_other_block_untouched :
    (match step (two (blk ⟨1, 0⟩ true) [.command 1 (req 0x02)]) with
      | .next t => t.blocks[0]? == some (blk ⟨1, 0⟩ true) && t.blocks[1]?.map (·.gen) == some (transition ⟨7, 8⟩)
      | .fault _ => false
      | .refused _ => false) = true := by decide
theorem test_reset_clears :
    (match step (two (blk ⟨1, 0⟩ true) [.reset 0]) with
      | .next t => t.blocks[0]?.map (fun c => (c.init, c.value, c.responses)) == some (false, none, [])
      | .fault _ => false
      | .refused _ => false) = true := by decide
theorem test_store_little : storeGen .little ⟨0x0123456789ABCDEF, 1⟩ =
    [0xEF, 0xCD, 0xAB, 0x89, 0x67, 0x45, 0x23, 0x01, 1, 0, 0, 0, 0, 0, 0, 0] := by decide
theorem test_restore_big : restoreGen .big [0x01, 0x23, 0x45, 0x67, 0x89, 0xAB, 0xCD, 0xEF, 0, 0, 0, 0, 0, 0, 0, 1] =
    some ⟨0x0123456789ABCDEF, 1⟩ := by decide
theorem test_text_seed : assembleText ['s', 'e', 'e', 'd', ' ', '4', '0', '1'] = some ⟨0x01, 401, 0⟩ := by decide
theorem test_text_load : assembleText ['l', 'o', 'a', 'd', ' ', '0', 'x', '1', 'F', ',', ' ', '2'] =
    some ⟨0x06, 0x1F, 2⟩ := by decide
theorem test_text_raw : assembleText ['.', 'c', 'm', 'd', ' ', '0', 'x', 'F', 'F', ',', ' ', '5', ',', ' ', '6'] =
    some ⟨0xFF, 5, 6⟩ := by decide
theorem test_text_refused : assembleText ['n', 'e', 'x', 't', ' ', '1'] = none ∧ assembleText ['N', 'E', 'X', 'T'] = none ∧
    assembleText ['j', 'u', 'm', 'p'] = none := by decide

/-! ### Witnesses: the hypotheses of the statements can be met -/

theorem witness_ExactlySevenLegalCommands : ∃ (s : State) (b : Block) (r r' : Request),
    s.inputs = [.command 0 r] ∧ s.blocks[0]? = some b ∧ r.cmd.toNat = 0x00 ∧ 0x08 ≤ r'.cmd.toNat ∧ r'.cmd = 0x08 :=
  ⟨two (blk ⟨1, 2⟩ true) [.command 0 (req 0x00)], _, req 0x00, req 0x08, rfl, rfl, by decide, by decide, rfl⟩

theorem witness_IgnoredPortsHaveNoEffect : ∃ r r' q q' : Request, r.cmd = 0x01 ∧ r.cmd = r'.cmd ∧ r.din0 = r'.din0 ∧
    r.din1 ≠ r'.din1 ∧ q.cmd = 0x02 ∧ q.cmd = q'.cmd ∧ q.din0 ≠ q'.din0 ∧ q.din1 ≠ q'.din1 :=
  ⟨⟨1, 5, 6⟩, ⟨1, 5, 7⟩, ⟨2, 5, 6⟩, ⟨2, 6, 7⟩, by decide⟩

theorem witness_StepRunsDecodedCommand : ∃ (s : State) (r : Request),
    s.inputs = [.command 1 r] ∧ decode r = .op (.load 3 4) :=
  ⟨two (blk ⟨1, 2⟩ true) [.command 1 ⟨6, 3, 4⟩], ⟨6, 3, 4⟩, rfl, by decide⟩

/-- SeedCommand, LoadCommand, and the clauses of ReadCommand, NextCommand, Jump32Command, Jump64Command,
Jump96Command, JumpEqualsManyNexts and ReadersFaultUninitialised: a driven instance with `init` either way. -/
theorem witness_driven : ∃ (s s' : State) (b b' : Block), s.blocks[s.port]? = some b ∧ b.init = true ∧
    s'.blocks[s'.port]? = some b' ∧ b'.init = false :=
  ⟨two (blk ⟨1, 2⟩ true) [], two (blk ⟨1, 2⟩ false) [], _, _, rfl, rfl, rfl, rfl⟩

theorem witness_SeedForgetsHistory : ∃ (s : State) (b : Block) (reqs : List Request),
    s.inputs = reqs.map (Input.command 0) ++ [.command 0 ⟨0x01, 401, 0⟩] ∧ s.blocks[0]? = some b ∧ reqs.length = 2 :=
  ⟨two (blk ⟨1, 2⟩ false) [.command 0 (req 0x02), .command 0 (req 0x00), .command 0 ⟨0x01, 401, 0⟩], _,
    [req 0x02, req 0x00], rfl, rfl, rfl⟩

theorem witness_ReadThenLoadRestores : ∃ (s s' : State) (b a : Block) (rd ld : Request) (reqs : List Request),
    s.blocks[0]? = some b ∧ b.init = true ∧ rd.cmd = 0x07 ∧ ld = ⟨0x06, b.gen.s0, b.gen.s1⟩ ∧
    s.inputs = [.command 0 rd, .command 0 ld] ∧
    s'.blocks = s.blocks ∧ s'.blocks[1]? = some a ∧ reqs = [rd, ld] ∧ s.inputs = reqs.map (Input.command 0) ∧
    s'.inputs = .command 1 ⟨0x06, b.gen.s0, b.gen.s1⟩ :: reqs.map (Input.command 1) :=
  ⟨two (blk ⟨1, 2⟩ true) [.command 0 (req 7), .command 0 ⟨6, 1, 2⟩],
    two (blk ⟨1, 2⟩ true) [.command 1 ⟨6, 1, 2⟩, .command 1 (req 7), .command 1 ⟨6, 1, 2⟩],
    _, _, req 7, ⟨6, 1, 2⟩, _, rfl, rfl, rfl, rfl, rfl, rfl, rfl, rfl, rfl, rfl⟩

/-- NextsIterateTransition, NextsNeverReachZero, the second clause of StatesRepeatWithFullPeriod, and the fourth clause of JumpEqualsManyNexts. -/
theorem witness_NextsIterateTransition : ∃ (s : State) (b : Block) (reqs : List Request),
    (∀ r ∈ reqs, r.cmd = 0x02) ∧ s.inputs = reqs.map (Input.command 0) ∧ s.blocks[0]? = some b ∧ b.init = true ∧
    b.gen ≠ Gen.zero ∧ reqs.length = 2 :=
  ⟨two (blk ⟨1, 2⟩ true) [.command 0 (req 2), .command 0 (req 2)], _, [req 2, req 2], by decide, rfl, rfl, rfl,
    by decide, rfl⟩

theorem witness_SameStateSameResponses : ∃ (s s' : State) (b b' : Block) (reqs : List Request),
    s.inputs = reqs.map (Input.command 0) ∧ s'.inputs = reqs.map (Input.command 1) ∧
    s.blocks[0]? = some b ∧ s'.blocks[1]? = some b' ∧ b.init = b'.init ∧ (b.init = true → b.gen = b'.gen) ∧
    reqs.length = 1 :=
  ⟨two (blk ⟨7, 8⟩ true) [.command 0 (req 2)], two (blk ⟨1, 2⟩ true) [.command 1 (req 2)], _, _, [req 2],
    rfl, rfl, rfl, rfl, rfl, fun _ => rfl, rfl⟩

theorem witness_DegenerateStreamIsZero : ∃ (s : State) (b : Block) (reqs : List Request),
    (∀ r ∈ reqs, r.cmd = 0x02) ∧ s.inputs = reqs.map (Input.command 0) ∧ s.blocks[0]? = some b ∧ b.init = true ∧
    b.gen = Gen.zero ∧ reqs.length = 2 :=
  ⟨two (blk ⟨0, 0⟩ true) [.command 0 (req 2), .command 0 (req 2)], _, [req 2, req 2], by decide, rfl, rfl, rfl, rfl,
    rfl⟩

theorem witness_StatesRepeatWithFullPeriod : ∃ g : Gen, g ≠ Gen.zero := ⟨⟨1, 0⟩, by decide⟩

/-- RotateMovesBits, LogicalShiftsFillWithZeros, ArithmeticShiftKeepsSign, EngineEvaluatesPolynomialAtT: both ends of the amounts and of the bits. -/
theorem witness_shift_amounts : (0 ≤ 63 ∧ 63 ≤ 63) ∧ rotl64 1 63 = 0x8000000000000000 ∧
    shl64 1 63 = 0x8000000000000000 ∧ lsr64 0x8000000000000000 63 = 1 ∧
    sar64 0x8000000000000000 63 = 0xFFFFFFFFFFFFFFFF := by decide

/-- EngineJumpsByPowersOfX, JumpEqualsManyNexts, Jump96IsJump32XorState: the distances. -/
theorem witness_distances : ∃ J K L : Nat, J = 2 ^ 32 ∧ K = 2 ^ 64 ∧ L = 2 ^ 96 := ⟨_, _, _, rfl, rfl, rfl⟩

theorem witness_JumpsCommute : ∃ f : Gen → Gen,
    f ∈ [fun g => jumpPoly g j32W0 j32W1, jumpClosed64, fun g => jumpPoly g j96W0 j96W1] :=
  ⟨jumpClosed64, by simp⟩

/-- ResponsesFollowTheTable, OneResponsePerCommand, AtMostOneFaultByPriority, CommandsLeaveTheRest's shape over a
step. -/
theorem witness_ResponsesFollowTheTable : ∃ (s t : State) (b c : Block),
    s.inputs = [.command 0 (req 0x02)] ∧ s.blocks[0]? = some b ∧ step s = .next t ∧ t.blocks[0]? = some c :=
  ⟨two (blk ⟨0, 0⟩ true) [.command 0 (req 0x02)], _, _, _, rfl, rfl, rfl, rfl⟩

theorem witness_ReadersFaultUninitialised : ∃ (s : State) (b : Block),
    Instr.jump96 ∈ [Instr.next, .jump32, .jump64, .jump96, .read] ∧ s.blocks[s.port]? = some b ∧ b.init = false :=
  ⟨two (blk ⟨1, 2⟩ false) [], _, by decide, rfl, rfl⟩

theorem witness_IllegalRequestsFault : ∃ (s : State) (b : Block) (cmd cmd' : Cmd),
    s.blocks[0]? = some b ∧ cmd.extractLsb' 3 5 ≠ 0 ∧ cmd'.extractLsb' 0 3 = 0 ∧
    s.inputs = [.command 0 ⟨cmd, 1, 2⟩, .command 0 ⟨cmd', 1, 2⟩] :=
  ⟨two (blk ⟨1, 2⟩ false) [.command 0 ⟨0x0B, 1, 2⟩, .command 0 ⟨0x00, 1, 2⟩], _, 0x0B, 0x00, rfl, by decide, by decide,
    rfl⟩

theorem witness_FaultedCommandWritesNothing : ∃ (s t : State) (b c : Block) (a : Response),
    s.inputs = [.command 0 (req 0x02)] ∧ s.blocks[0]? = some b ∧ step s = .next t ∧ t.blocks[0]? = some c ∧
    c.responses.getLast? = some a ∧ a.err = true :=
  ⟨two (blk ⟨1, 2⟩ false) [.command 0 (req 0x02)], _, _, _, _, rfl, rfl, rfl, rfl, rfl, rfl⟩

/-- Also for the instance that is not driven. -/
theorem witness_FaultRecordOnlyGrows : ∃ (s t : State) (b b' : Block),
    s.inputs = [.command 0 (req 0x00)] ∧ step s = .next t ∧ s.blocks[0]? = some b ∧ s.blocks[1]? = some b' :=
  ⟨two (blk ⟨1, 2⟩ false) [.command 0 (req 0x00)], _, _, _, rfl, rfl, rfl, rfl⟩

theorem witness_DegenerateStateIsNoFault : ∃ (s : State) (b : Block), s.blocks[s.port]? = some b ∧ b.init = true ∧
    b.gen = Gen.zero ∧ Instr.next ∈ [Instr.next, .jump32, .jump64, .jump96] :=
  ⟨two (blk ⟨0, 0⟩ true) [], _, rfl, rfl, rfl, by decide⟩

theorem witness_NothingCompletesBeforeSeedOrLoad : ∃ (n k : Nat) (reqs : List Request), k < n ∧
    (∀ r ∈ reqs, r.cmd ≠ 0x01 ∧ r.cmd ≠ 0x06) ∧ reqs.length = 2 :=
  ⟨3, 2, [req 0x02, req 0x00], by decide, by decide, rfl⟩

theorem witness_ReadAfterChangeSeesIt : ∃ (s : State) (b : Block) (r rd : Request), s.blocks[0]? = some b ∧
    b.init = true ∧ r.cmd ∈ [(0x02 : Cmd), 0x03, 0x04, 0x05] ∧ rd.cmd = 0x07 ∧
    s.inputs = [.command 0 r, .command 0 rd] :=
  ⟨two (blk ⟨1, 2⟩ true) [.command 0 (req 3), .command 0 (req 7)], _, req 3, req 7, rfl, rfl, by decide, rfl, rfl⟩

theorem witness_ResetLeavesNoValue : ∃ b : Block, b ∈ State.reset.blocks := ⟨Block.atReset 0 0, List.mem_cons_self⟩

theorem witness_ResetInputClearsInstance : ∃ (s : State) (b : Block),
    s.inputs = [.reset 1] ∧ s.blocks[1]? = some b ∧ b.init = true :=
  ⟨two (blk ⟨1, 2⟩ true) [.reset 1], _, rfl, rfl, rfl⟩

/-- Both clauses: an input for one instance of two machines that differ in the other. -/
theorem witness_InstancesAreIndependent : ∃ s s' t t' : State,
    s.inputs = [.command 1 (req 2)] ∧ s'.inputs = [.command 1 (req 2)] ∧ s.blocks[1]? = s'.blocks[1]? ∧
    s.blocks[0]? ≠ s'.blocks[0]? ∧ step s = .next t ∧ step s' = .next t' :=
  ⟨two (blk ⟨1, 2⟩ true) [.command 1 (req 2)], two (blk ⟨3, 4⟩ false) [.command 1 (req 2)], _, _, rfl, rfl, rfl,
    by decide, rfl, rfl⟩

/-- A command, and an input that is none. -/
theorem witness_InitChangesOnlyBySeedLoadReset : ∃ (s s' t t' : State) (b c b' c' : Block),
    s.inputs = [.command 0 (req 1)] ∧ step s = .next t ∧ s.blocks[0]? = some b ∧ t.blocks[0]? = some c ∧
    s'.inputs = [.powerLoss 0] ∧ step s' = .next t' ∧ s'.blocks[0]? = some b' ∧ t'.blocks[0]? = some c' ∧
    ∀ k r, Input.powerLoss 0 ≠ .command k r :=
  ⟨two (blk ⟨1, 2⟩ false) [.command 0 (req 1)], two (blk ⟨1, 2⟩ true) [.powerLoss 0], _, _, _, _, _, _,
    rfl, rfl, rfl, rfl, rfl, rfl, rfl, rfl, fun _ _ => by simp⟩

theorem witness_CommandsLeaveTheRest : ∃ (s t : State) (b c : Block), s.blocks[s.port]? = some b ∧
    exec .read s = .next t ∧ t.blocks[s.port]? = some c ∧ b.init = true :=
  ⟨two (blk ⟨1, 2⟩ true) [], _, _, _, rfl, rfl, rfl, rfl⟩

theorem witness_CommandsLeaveTheRest_uninitialised : ∃ (s t : State) (b c : Block), s.blocks[s.port]? = some b ∧
    exec .jump64 s = .next t ∧ t.blocks[s.port]? = some c ∧ b.init = false :=
  ⟨two (blk ⟨1, 2⟩ false) [], _, _, _, rfl, rfl, rfl, rfl⟩

theorem witness_SeedAndLoadReadNothing : ∃ (s s' : State) (b : Block) (g : Gen) (ini : Bool),
    s.blocks[s.port]? = some b ∧
    s' = { s with blocks := s.blocks.set s.port { b with gen := g, init := ini } } ∧ b.gen ≠ g ∧ b.init ≠ ini :=
  ⟨two (blk ⟨1, 2⟩ false) [], _, _, ⟨3, 4⟩, true, rfl, rfl, by decide, by decide⟩

/-- The three clauses; the second at the first number that no instance has, for each kind of input. -/
theorem witness_StopsAndWaiting : ∃ (s s'' : State) (s' : Input → State), s.inputs = [.overlap 0 (req 1) (req 2)] ∧
    (∀ inp ∈ [Input.command 2 (req 1), .reset 2, .resetDuring 2 (req 1), .powerLoss 2],
      (s' inp).inputs = [inp] ∧ (∀ k r r', inp ≠ .overlap k r r') ∧ (s' inp).blocks.length ≤ inp.block) ∧
    s''.inputs = [] :=
  ⟨two (blk ⟨1, 2⟩ true) [.overlap 0 (req 1) (req 2)], two (blk ⟨1, 2⟩ true) [], fun inp => two (blk ⟨1, 2⟩ true) [inp],
    rfl, by simp [two, Input.block], rfl⟩

theorem witness_ResetMeetsInvariant : 0 < 1 ∧ (State.resetOf 1).blocks = [Block.atReset 0 0] := ⟨by decide, rfl⟩

/-- A machine of one instance right after reset, with a SEED to deliver. -/
def fresh : State :=
  { blocks := [blk ⟨1, 2⟩ false], port := 0, inputs := [.command 0 ⟨0x01, 401, 0⟩] }

theorem witness_StepKeepsInvariant : fresh.Inv ∧ ∃ t, step fresh = .next t :=
  ⟨⟨by decide, fun b hb => by
      obtain rfl : b = blk ⟨1, 2⟩ false := by simpa [fresh] using hb
      exact ⟨rfl, rfl, fun r hr => by simp [blk] at hr, fun f hf => by simp [blk] at hf, rfl⟩⟩, _, rfl⟩

theorem witness_StepKeepsNonDegenerate : ∃ s t : State, s.NonDegenerate ∧
    (∀ inp ∈ s.inputs, inp.loadsZero = false) ∧ step s = .next t ∧ s.inputs ≠ [] :=
  ⟨two (blk ⟨1, 2⟩ true) [.command 0 ⟨0x06, 0, 1⟩], _, by unfold State.NonDegenerate; decide, by decide, rfl,
    by decide⟩

/-- Two machines that differ, and only in what an instance without a value holds. -/
theorem witness_UninitialisedContentsAreInvisible : ∃ s s' : State, s.SameVisible s' ∧ s ≠ s' :=
  ⟨two (blk ⟨1, 2⟩ false) [], two (blk ⟨3, 4⟩ false) [],
    ⟨rfl, rfl, .cons ⟨rfl, rfl, rfl, rfl, rfl, rfl⟩ (.cons ⟨rfl, rfl, rfl, rfl, rfl, rfl⟩ .nil)⟩, by decide⟩

theorem witness_StoredStateRestoresExactly : (0 < 8 ∧ 7 < 8) ∧
    (storeGen .big ⟨0x0123456789ABCDEF, 1⟩)[7 - 7]? = some 0x01 ∧
    (storeGen .little ⟨0x0123456789ABCDEF, 1⟩)[8 + 0]? = some 0x01 := by decide

theorem witness_EncodedCommandReadsBack : ∃ (i : Instr) (r : Request), decode r = .op i :=
  ⟨.read, req 7, by decide⟩

end Sys2Proof.Tests
end

section
/-! PROOFS. The statements about scope: what a reset leaves in every instance, and what a list of NEXT requests does. -/

namespace Sys2Proof.Machine

/-! ### The reset state -/

@[simp] theorem Block.atReset_value (k n : Nat) : (Block.atReset k n).value = none := rfl
@[simp] theorem Block.atReset_lastResponse (k n : Nat) : (Block.atReset k n).lastResponse = none := rfl

theorem Block.eq_atReset_of_mem_allAtReset {b : Block} {first n : Nat} (h : b ∈ Block.allAtReset first n) :
    ∃ k, b = Block.atReset k 0 := by
  obtain ⟨k, hk, rfl⟩ := List.mem_iff_getElem.mp h
  rw [Block.allAtReset_length] at hk
  exact ⟨first + k, List.getElem_eq_iff _ |>.mpr (Block.allAtReset_getElem? first n k hk)⟩

/-- Settles O44: every instance of the reset state is `Block.atReset`, whose fields are those of R33. -/
theorem resetLeavesNoValue : Obligations.ResetLeavesNoValue := by
  refine ⟨Block.allAtReset_length 0 Config.nBlocks, Nat.le_add_left 1 Config.otherBlocks, fun b hb => ?_⟩
  obtain ⟨k, rfl⟩ := Block.eq_atReset_of_mem_allAtReset hb
  simp

/-! ### Lists of NEXT requests -/

/-- What `n` NEXT commands make of an initialised instance: the pair is `n` steps of T further on, and the outputs of
the states passed are answered in order (R12, R115). -/
def Block.afterNexts (n : Nat) (b : Block) : Block :=
  { b with
    gen := transitionPow n b.gen
    responses := b.responses ++ (List.range n).map (fun j => Response.value (output (transitionPow j b.gen)))
    index := b.index + n }

@[simp] theorem Block.afterNexts_zero (b : Block) : b.afterNexts 0 = b := by simp [Block.afterNexts]

/-- One NEXT more takes the instance from `n` of them to `n + 1`. -/
theorem Block.take_afterNexts {r : Request} {b : Block} (n : Nat) (hr : r.cmd = 0x02) (hb : b.init = true) :
    (b.afterNexts n).take r = b.afterNexts (n + 1) := by
  have hinit : (b.afterNexts n).init = true := hb
  rw [Block.take_next hr hinit]
  simp [Block.afterNexts, Block.respond, Block.write, transitionPow_succ, List.range_succ, Nat.add_assoc]

theorem Block.takeAll_nexts {reqs : List Request} {b : Block} (hr : ∀ r ∈ reqs, r.cmd = 0x02) (hb : b.init = true) :
    b.takeAll reqs = b.afterNexts reqs.length := by
  induction reqs using List.reverseRecOn with
  | nil => simp
  | append_singleton reqs r ih =>
    have hfront : ∀ q ∈ reqs, q.cmd = 0x02 := fun q hq => hr q (List.mem_append_left _ hq)
    have hlast : r.cmd = 0x02 := hr r (by simp)
    rw [Block.takeAll_append, ih hfront, Block.takeAll_cons, Block.takeAll_nil, Block.take_afterNexts _ hlast hb,
      List.length_append, List.length_singleton]

/-- Settles O14: the run hands the instance its requests in order, and NEXT requests iterate T. -/
theorem nextsIterateTransition : Obligations.NextsIterateTransition := by
  intro reqs s k b hr hi hk hb
  obtain ⟨t, hrun, hblock, -⟩ := run_commands_block reqs [] s k b (by simpa using hi) hk
  rw [Block.takeAll_nexts hr hb] at hblock
  exact ⟨t, _, hrun, hblock, hb, rfl, rfl, rfl⟩

end Sys2Proof.Machine
end

section
/-! PROOFS. What one request can do to the record of the instance that takes it, and the invariant of the records. -/

namespace Sys2Proof

/-- Whether a request is illegal depends on its CMD byte alone (R60, R63). -/
theorem decode_eq_illegal_congr {r r' : Request} (h : r.cmd = r'.cmd) : decode r = .illegal ↔ decode r' = .illegal := by
  have hrsv : r.rsv = r'.rsv := congrArg (BitVec.extractLsb' 3 5) h
  have hop : r.op = r'.op := congrArg (BitVec.extractLsb' 0 3) h
  unfold decode
  rw [hrsv, hop]
  split_ifs <;> simp

theorem cmd_ne_of_decode_illegal {r : Request} (h : decode r = .illegal) : r.cmd ≠ 0x01 ∧ r.cmd ≠ 0x06 :=
  ⟨fun h1 => by simp [decode_0x01 h1] at h, fun h6 => by simp [decode_0x06 h6] at h⟩

namespace Machine

/-! ### A request completes or faults -/

theorem FaultRecord.fits_illegalCommand {r : Request} (h : decode r = .illegal) :
    (FaultRecord.mk .illegalCommand r.cmd).fits = true :=
  decide_eq_true ((decode_eq_illegal_congr (by rfl)).mp h)

theorem FaultRecord.fits_uninitialised {r : Request} (hl : decode r ≠ .illegal) (h1 : r.cmd ≠ 0x01)
    (h6 : r.cmd ≠ 0x06) : (FaultRecord.mk .uninitialised r.cmd).fits = true := by
  rcases decode_cases r with h | h | h | h | h | h | h | h
  · exact absurd h h1
  · rw [h]; rfl
  · rw [h]; rfl
  · rw [h]; rfl
  · rw [h]; rfl
  · exact absurd h h6
  · rw [h]; rfl
  · exact absurd h hl

/-- `c` is `b` after a command that completed: one response more, without ERR; no new fault; the pair has a value. -/
structure Block.Completed (b c : Block) : Prop where
  response : ∃ a : Response, a.err = false ∧ c.responses = b.responses ++ [a]
  index    : c.index = b.index + 1
  faults   : c.faults = b.faults
  init     : c.init = true

theorem Block.assign_respond_done_completed (b : Block) (g : Gen) :
    b.Completed ((b.assign g).respond Response.done) := ⟨⟨_, rfl, rfl⟩, rfl, rfl, rfl⟩

theorem Block.write_respond_completed {b : Block} (hb : b.init = true) (g : Gen) {a : Response} (ha : a.err = false) :
    b.Completed ((b.write g).respond a) := ⟨⟨a, ha, rfl⟩, rfl, rfl, hb⟩

/-- A request completes, or it raises one fault with its own CMD byte, of a kind that byte can have (R151, R155). -/
theorem Block.take_completed_or_faulted (r : Request) (b : Block) :
    b.Completed (b.take r) ∨
    ∃ kind, (FaultRecord.mk kind r.cmd).fits = true ∧ b.take r = b.raiseFault kind r.cmd := by
  rcases Block.take_cases r b with ⟨-, h⟩ | ⟨-, h⟩ | ⟨hb, -, h⟩ | ⟨hb, -, h⟩ | ⟨hb, -, h⟩ | ⟨hb, -, h⟩ | ⟨hb, -, h⟩ |
    ⟨-, hl, h1, h6, h⟩ | ⟨hd, h⟩
  · exact .inl (h ▸ b.assign_respond_done_completed _)
  · exact .inl (h ▸ b.assign_respond_done_completed _)
  · exact .inl (h ▸ Block.write_respond_completed hb _ rfl)
  · exact .inl (h ▸ Block.write_respond_completed hb _ rfl)
  · exact .inl (h ▸ Block.write_respond_completed hb _ rfl)
  · exact .inl (h ▸ Block.write_respond_completed hb _ rfl)
  · exact .inl (h ▸ Block.write_respond_completed hb b.gen rfl)
  · exact .inr ⟨_, FaultRecord.fits_uninitialised hl h1 h6, h⟩
  · exact .inr ⟨_, FaultRecord.fits_illegalCommand hd, h⟩

/-- SEED and LOAD set `init`; no request clears it (R22). -/
theorem Block.take_init (r : Request) (b : Block) :
    (b.take r).init = (b.init || decide (r.cmd = 0x01 ∨ r.cmd = 0x06)) := by
  rcases Block.take_cases r b with ⟨hc, h⟩ | ⟨hc, h⟩ | ⟨hb, -, h⟩ | ⟨hb, -, h⟩ | ⟨hb, -, h⟩ | ⟨hb, -, h⟩ | ⟨hb, -, h⟩ |
    ⟨-, -, h1, h6, h⟩ | ⟨hd, h⟩
  · simp [h, hc]
  · simp [h, hc]
  · simp [h, hb]
  · simp [h, hb]
  · simp [h, hb]
  · simp [h, hb]
  · simp [h, hb]
  · rw [h, decide_eq_false (not_or.mpr ⟨h1, h6⟩), Bool.or_false, Block.raiseFault_init]
  · rw [h, decide_eq_false (not_or.mpr (cmd_ne_of_decode_illegal hd)), Bool.or_false, Block.raiseFault_init]

/-- A request leaves the old faults first and adds at most one (R156). -/
theorem Block.take_faults (r : Request) (b : Block) :
    ∃ new : List FaultRecord, (b.take r).faults = b.faults ++ new ∧ new.length ≤ 1 := by
  rcases b.take_completed_or_faulted r with hdone | ⟨kind, -, h⟩
  · exact ⟨[], by simp [hdone.faults], by simp⟩
  · exact ⟨[⟨kind, r.cmd⟩], by simp [h], by simp⟩

/-! ### The invariant of one record -/

theorem Block.atReset_consistent (k n : Nat) : (Block.atReset k n).Consistent where
  index_counts := rfl
  fault_for_err := rfl
  err_zero := by simp
  fault_fits := by simp
  init_iff_done := rfl

theorem Block.Completed.consistent {b c : Block} (hb : b.Consistent) (h : b.Completed c) : c.Consistent := by
  obtain ⟨⟨a, ha, hresponses⟩, hindex, hfaults, hinit⟩ := h
  exact {
    index_counts := by simp [hindex, hresponses, hb.index_counts]
    fault_for_err := by simp [hfaults, hresponses, ha, hb.fault_for_err]
    err_zero := fun r hr herr => by
      rw [hresponses, List.mem_append, List.mem_singleton] at hr
      rcases hr with hr | rfl
      · exact hb.err_zero r hr herr
      · simp [ha] at herr
    fault_fits := by simpa only [hfaults] using hb.fault_fits
    init_iff_done := by simp [hinit, hresponses, ha] }

theorem Block.Consistent.raiseFault {b : Block} (hb : b.Consistent) {kind : FaultKind} {info : Cmd}
    (hfits : (FaultRecord.mk kind info).fits = true) : (b.raiseFault kind info).Consistent where
  index_counts := by simp [hb.index_counts]
  fault_for_err := by simp [hb.fault_for_err, List.filter_singleton]
  err_zero := fun r hr herr => by
    rw [Block.raiseFault_responses, List.mem_append, List.mem_singleton] at hr
    exact hr.elim (fun hr => hb.err_zero r hr herr) id
  fault_fits := fun f hf => by
    rw [Block.raiseFault_faults, List.mem_append, List.mem_singleton] at hf
    rcases hf with hf | rfl
    · exact hb.fault_fits f hf
    · exact hfits
  init_iff_done := by simp [hb.init_iff_done]

theorem Block.Consistent.take {b : Block} (hb : b.Consistent) (r : Request) : (b.take r).Consistent := by
  rcases b.take_completed_or_faulted r with hdone | ⟨kind, hfits, h⟩
  · exact hdone.consistent hb
  · exact h ▸ hb.raiseFault hfits

/-! ### What an input with an action does -/

/-- An input that is no request resets its instance, or has no action. -/
theorem Input.action_of_not_command {inp : Input} {f : Block → Block} (hf : inp.action = some f)
    (hn : ∀ k r, inp ≠ .command k r) : f = Block.restart inp.block := by
  cases inp with
  | command k r => exact absurd rfl (hn k r)
  | reset k => exact (Option.some.inj hf).symm
  | resetDuring k r => exact (Option.some.inj hf).symm
  | powerLoss k => exact (Option.some.inj hf).symm
  | overlap k r r' => simp [Input.action] at hf

/-- The two actions there are: a request is taken, or the instance starts again. -/
theorem Input.action_cases {inp : Input} {f : Block → Block} (hf : inp.action = some f) :
    (∃ k r, inp = .command k r ∧ f = Block.take r) ∨ f = Block.restart inp.block := by
  by_cases hn : ∀ k r, inp ≠ .command k r
  · exact .inr (Input.action_of_not_command hf hn)
  · push Not at hn
    obtain ⟨k, r, rfl⟩ := hn
    exact .inl ⟨k, r, rfl, (Option.some.inj hf).symm⟩

theorem Block.Consistent.action {b : Block} (hb : b.Consistent) {inp : Input} {f : Block → Block}
    (hf : inp.action = some f) : (f b).Consistent := by
  rcases Input.action_cases hf with ⟨k, r, -, rfl⟩ | rfl
  · exact hb.take r
  · exact Block.atReset_consistent _ _

/-! ### The invariant of the machine -/

/-- Settles O54: a step lets one instance take one action, and every action keeps that instance's record consistent. -/
theorem stepKeepsInvariant : Obligations.StepKeepsInvariant := by
  intro s t hs h
  rcases step_cases h with ⟨-, rfl⟩ | ⟨inp, rest, f, b, -, hf, hb, rfl⟩
  · exact hs
  · have hlt : inp.block < s.blocks.length := (List.getElem?_eq_some_iff.mp hb).1
    have hfb : (f b).Consistent := (hs.consistent b (List.mem_of_getElem? hb)).action hf
    refine ⟨by simpa using hlt, fun c hc => ?_⟩
    rcases List.mem_or_eq_of_mem_set hc with hc | rfl
    · exact hs.consistent c hc
    · exact hfb

/-- Settles O53: every instance of a reset machine is `Block.atReset`, whose record is consistent and empty. -/
theorem resetMeetsInvariant : Obligations.ResetMeetsInvariant := by
  have hinv : ∀ n : Nat, 0 < n → (State.resetOf n).Inv := fun n hn =>
    { port_exists := by simpa [Block.allAtReset_length] using hn
      consistent := fun b hb => by
        obtain ⟨k, rfl⟩ := Block.eq_atReset_of_mem_allAtReset hb
        exact Block.atReset_consistent k 0 }
  refine ⟨hinv _ (Nat.succ_pos Config.otherBlocks), fun b hb hinit => ?_, hinv⟩
  obtain ⟨k, rfl⟩ := Block.eq_atReset_of_mem_allAtReset hb
  simp at hinit

end Machine

end Sys2Proof
end

section
/-! PROOFS. What one step over a given input does to the machine. -/

namespace Sys2Proof.Machine

/-- `step_cases` with the input known. -/
theorem step_next_input {s t : State} {inp : Input} {rest : List Input} (hi : s.inputs = inp :: rest)
    (h : step s = .next t) :
    ∃ f b, inp.action = some f ∧ s.blocks[inp.block]? = some b ∧
      t = { blocks := s.blocks.set inp.block (f b), port := inp.block, inputs := rest } := by
  rcases step_cases h with ⟨hnil, -⟩ | ⟨inp', rest', f, b, hi', hf, hb, rfl⟩
  · simp [hnil] at hi
  · rw [hi] at hi'
    obtain ⟨rfl, rfl⟩ := List.cons.inj hi'
    exact ⟨f, b, hf, hb, rfl⟩

theorem State.lt_of_block {s : State} {k : Nat} {b : Block} (hb : s.blocks[k]? = some b) : k < s.blocks.length :=
  (List.getElem?_eq_some_iff.mp hb).1

/-! ### Requests -/

/-- Settles O40: the instance that takes the request adds at most one fault, every other instance none. -/
theorem faultRecordOnlyGrows : Obligations.FaultRecordOnlyGrows := by
  intro s t k j r rest b hi h hb
  obtain ⟨f, a, hf, ha, rfl⟩ := step_next_input hi h
  obtain rfl : Block.take r = f := Option.some.inj hf
  by_cases hj : j = k
  · subst hj
    obtain rfl : a = b := Option.some.inj (ha.symm.trans hb)
    obtain ⟨new, hnew, hlen⟩ := a.take_faults r
    exact ⟨a.take r, new, List.getElem?_set_self (State.lt_of_block hb), hnew, hlen⟩
  · exact ⟨b, [], by simpa [Input.block, List.getElem?_set_ne (Ne.symm hj)] using hb, by simp, by simp⟩

/-- Settles O49: a request to an instance that exists is taken by it, and is answered once. -/
theorem oneResponsePerCommand : Obligations.OneResponsePerCommand := by
  intro s b k r rest hi hb
  obtain ⟨a, hresponses, hindex, -⟩ := b.take_answered r
  exact ⟨_, b.take r, a, step_command hi hb, List.getElem?_set_self (State.lt_of_block hb), hresponses, hindex, rfl⟩

/-! ### Every input -/

/-- Settles O47: an input's action is applied to its own instance only, and to nothing but that instance. -/
theorem instancesAreIndependent : Obligations.InstancesAreIndependent := by
  refine ⟨Block.allAtReset_length 0 Config.nBlocks, fun s t inp rest hi h => ?_,
    fun s s' t t' inp rest rest' hi hi' hsame h h' => ?_⟩
  · obtain ⟨f, b, -, -, rfl⟩ := step_next_input hi h
    exact ⟨List.length_set, fun j hj => List.getElem?_set_ne hj.symm⟩
  · obtain ⟨f, b, hf, hb, rfl⟩ := step_next_input hi h
    obtain ⟨f', b', hf', hb', rfl⟩ := step_next_input hi' h'
    obtain rfl : f = f' := Option.some.inj (hf.symm.trans hf')
    obtain rfl : b = b' := Option.some.inj (hb.symm.trans (hsame.trans hb'))
    simp [State.lt_of_block hb, State.lt_of_block hb']

/-- Settles O48: `Block.take_init` for the requests; every other input with a next state restarts its instance. -/
theorem initChangesOnlyBySeedLoadReset : Obligations.InitChangesOnlyBySeedLoadReset := by
  intro s t inp rest b c hi h hb hc
  obtain ⟨f, a, hf, ha, rfl⟩ := step_next_input hi h
  obtain rfl : a = b := Option.some.inj (ha.symm.trans hb)
  obtain rfl : f a = c := by simpa [State.lt_of_block hb] using hc
  refine ⟨fun k r hcmd => ?_, fun hn => ?_⟩
  · subst hcmd
    obtain rfl : Block.take r = f := Option.some.inj hf
    exact Block.take_init r a
  · rw [Input.action_of_not_command hf hn, Block.restart_init]

/-- Settles O45: RESET restarts its instance and touches no other. -/
theorem resetInputClearsInstance : Obligations.ResetInputClearsInstance := by
  intro s k b rest hi hb
  have hstep : step s = .next { blocks := s.blocks.set k (b.restart k), port := k, inputs := rest } := by
    rw [step_deliver hi]
    exact State.onPort_some (s := (s.withInputs rest).drive k) _ hb
  exact ⟨_, b.restart k, hstep, List.getElem?_set_self (State.lt_of_block hb), rfl, rfl, rfl, rfl, rfl, rfl,
    List.length_set, fun j hj => List.getElem?_set_ne hj.symm⟩

theorem Input.action_isSome {inp : Input} (h : ∀ k r r', inp ≠ .overlap k r r') : ∃ f, inp.action = some f := by
  cases inp with
  | command k r => exact ⟨_, rfl⟩
  | reset k => exact ⟨_, rfl⟩
  | resetDuring k r => exact ⟨_, rfl⟩
  | powerLoss k => exact ⟨_, rfl⟩
  | overlap k r r' => exact absurd rfl (h k r r')

/-- Settles O52: an overlap has no action; an action finds no instance past the last; an empty list delivers nothing. -/
theorem stopsAndWaiting : Obligations.StopsAndWaiting := by
  refine ⟨fun s k r r' rest hi => ?_, fun s inp rest hi hno hlen => ?_, fun s => step_idle⟩
  · rw [step_deliver hi]
    rfl
  · obtain ⟨f, hf⟩ := Input.action_isSome hno
    rw [step_deliver hi, State.deliver_eq, hf]
    exact State.onPort_none f hlen

/-! ### Commands on the driven instance -/

/-- A command that answers a next state has let the driven instance take its effect, and has changed nothing else. -/
theorem exec_next {i : Instr} {s t : State} {b : Block} (hb : s.blocks[s.port]? = some b) (h : exec i s = .next t) :
    t = { s with blocks := s.blocks.set s.port (b.effect i) } := by
  rw [exec_eq_onPort, State.onPort_some _ hb] at h
  exact (Host.Outcome.next.inj h).symm

/-- A NEXT or jump that completes leaves `init` and the faults. -/
theorem Block.effect_nextOrJump_init {i : Instr} {b : Block} (hi : i ∈ [Instr.next, .jump32, .jump64, .jump96])
    (hb : b.init = true) : (b.effect i).init = true ∧ (b.effect i).faults = b.faults := by
  have hcases : i = .next ∨ i = .jump32 ∨ i = .jump64 ∨ i = .jump96 := by simpa using hi
  rcases hcases with rfl | rfl | rfl | rfl <;> simp [Block.effect, Block.reading_init _ _ hb, hb]

/-- A NEXT or jump that faults leaves the pair and `init`. -/
theorem Block.effect_nextOrJump_not_init {i : Instr} {b : Block}
    (hi : i ∈ [Instr.next, .jump32, .jump64, .jump96]) (hb : b.init = false) :
    (b.effect i).gen = b.gen ∧ (b.effect i).init = false := by
  have hs : ∀ v, i ≠ .seed v := by rintro v rfl; simp at hi
  have hl : ∀ x y, i ≠ .load x y := by rintro x y rfl; simp at hi
  simp [Block.effect_uninitialised hb hs hl, hb]

theorem Block.effect_read_init {b : Block} (hb : b.init = true) :
    b.effect .read = b.respond (Response.pair b.gen) := by
  rw [Block.effect, Block.reading_init _ _ hb]

/-- READ leaves the pair and `init`, whether it completes or faults. -/
theorem Block.effect_read_frame (b : Block) :
    (b.effect .read).gen = b.gen ∧ (b.effect .read).init = b.init := by
  cases hb : b.init with
  | true => simp [Block.effect_read_init hb, hb]
  | false => simp [Block.effect_uninitialised (i := .read) hb (by simp) (by simp), hb]

/-- Settles O50: only the driven instance changes, and each command changes of it what its effect does. -/
theorem commandsLeaveTheRest : Obligations.CommandsLeaveTheRest := by
  intro i s t b c hb h hc
  obtain rfl := exec_next hb h
  obtain rfl : b.effect i = c := by simpa [State.lt_of_block hb] using hc
  obtain ⟨-, -, -, hresets⟩ := b.effect_answered i
  refine ⟨rfl, rfl, List.length_set, fun j hj => List.getElem?_set_ne hj.symm, hresets, ?_, ?_,
    Block.effect_nextOrJump_init, ?_, ?_, Block.effect_nextOrJump_not_init⟩
  · rintro v rfl
    rfl
  · rintro x y rfl
    rfl
  · rintro rfl
    exact b.effect_read_frame
  · rintro rfl hinit
    rw [Block.effect_read_init hinit, Block.respond_faults]

/-- Two machines that differ in the driven instance alone are taken to one state by a command whose effect on the two
instances is the same. -/
theorem exec_set_driven {i : Instr} {s : State} {b a : Block} (hb : s.blocks[s.port]? = some b)
    (hsame : a.effect i = b.effect i) :
    ∃ t, exec i s = .next t ∧ exec i { s with blocks := s.blocks.set s.port a } = .next t := by
  refine ⟨_, (exec_eq_onPort i s).trans (State.onPort_some _ hb), ?_⟩
  rw [exec_eq_onPort, State.onPort_some (b := a) _ (List.getElem?_set_self (State.lt_of_block hb)), hsame]
  simp

/-- Settles O51: the effects of SEED and LOAD overwrite the pair and `init`. -/
theorem seedAndLoadReadNothing : Obligations.SeedAndLoadReadNothing := by
  intro s s' b g ini v x y hb hs'
  subst hs'
  exact ⟨exec_set_driven hb rfl, exec_set_driven hb rfl⟩

end Sys2Proof.Machine
end

section
/-! PROOFS. What the registers hold while `init = 0` is invisible: actions, and so steps, do not tell apart two
machines that differ only there. -/

namespace Sys2Proof.Machine

/-! ### One instance -/

theorem Block.SameVisible.refl (b : Block) : b.SameVisible b := ⟨rfl, rfl, rfl, rfl, rfl, rfl⟩

/-- Two instances that look the same are equal, or both hold no value and differ in the pair alone. -/
theorem Block.sameVisible_cases {a b : Block} (h : a.SameVisible b) :
    a = b ∨ (a.init = false ∧ ∃ g, b = { a with gen := g }) := by
  obtain ⟨gen, init, faults, responses, index, resets⟩ := a
  obtain ⟨gen', init', faults', responses', index', resets'⟩ := b
  obtain ⟨hvalue, rfl, rfl, rfl, rfl, rfl⟩ := h
  cases init with
  | true => exact .inl (by simpa [Block.value] using hvalue)
  | false => exact .inr ⟨rfl, gen', rfl⟩

theorem Block.sameVisible_of_gen {a : Block} (ha : a.init = false) (g : Gen) :
    a.SameVisible { a with gen := g } := ⟨by simp [Block.value, ha], rfl, rfl, rfl, rfl, rfl⟩

/-- While `init = 0` a request overwrites the pair or faults, so its result looks the same whatever the pair was. -/
theorem Block.take_sameVisible_of_gen (r : Request) {a : Block} (ha : a.init = false) (g : Gen) :
    (a.take r).SameVisible (({ a with gen := g } : Block).take r) := by
  by_cases hd : decode r = .illegal
  · rw [Block.take_of_illegal hd, Block.take_of_illegal hd]
    exact Block.sameVisible_of_gen (a := a.raiseFault _ _) ha g
  by_cases h1 : r.cmd = 0x01
  · rw [Block.take_seed h1, Block.take_seed h1]
    exact .refl _
  by_cases h6 : r.cmd = 0x06
  · rw [Block.take_load h6, Block.take_load h6]
    exact .refl _
  · rw [Block.take_uninitialised hd h1 h6 ha, Block.take_uninitialised (b := { a with gen := g }) hd h1 h6 ha]
    exact Block.sameVisible_of_gen (a := a.raiseFault _ _) ha g

theorem Block.SameVisible.take {a b : Block} (h : a.SameVisible b) (r : Request) :
    (a.take r).SameVisible (b.take r) := by
  rcases Block.sameVisible_cases h with rfl | ⟨ha, g, rfl⟩
  · exact .refl _
  · exact Block.take_sameVisible_of_gen r ha g

theorem Block.SameVisible.restart {a b : Block} (h : a.SameVisible b) (k : Nat) :
    (a.restart k).SameVisible (b.restart k) := by
  obtain ⟨-, -, -, -, -, hresets⟩ := h
  simpa only [Block.restart, hresets] using .refl (Block.atReset k (b.resets + 1))

theorem Block.SameVisible.action {a b : Block} (h : a.SameVisible b) {inp : Input} {f : Block → Block}
    (hf : inp.action = some f) : (f a).SameVisible (f b) := by
  rcases Input.action_cases hf with ⟨k, r, -, rfl⟩ | rfl
  · exact h.take r
  · exact h.restart _

/-! ### The machine -/

/-- Lists related entry by entry stay so when related entries are put at the same place. -/
theorem forall₂_set {α β : Type} {R : α → β → Prop} {l : List α} {l' : List β} (h : List.Forall₂ R l l') (k : Nat)
    {a : α} {b : β} (hab : R a b) : List.Forall₂ R (l.set k a) (l'.set k b) := by
  induction h generalizing k with
  | nil => exact .nil
  | cons hxy htail ih =>
    cases k with
    | zero => exact .cons hab htail
    | succ k => exact .cons hxy (ih k)

/-- An action that does not tell instances apart that look the same does not tell such machines apart. -/
theorem State.SameVisible.onPort {s s' : State} {f : Block → Block} (h : s.SameVisible s')
    (hf : ∀ a b : Block, a.SameVisible b → (f a).SameVisible (f b)) :
    (∃ t t', s.onPort f = .next t ∧ s'.onPort f = .next t' ∧ t.SameVisible t') ∨
    (s.onPort f = .fault .noSuchBlock ∧ s'.onPort f = .fault .noSuchBlock) := by
  obtain ⟨hport, hinputs, hblocks⟩ := h
  have hlen : s.blocks.length = s'.blocks.length := hblocks.length_eq
  by_cases hk : s.port < s.blocks.length
  · have hk' : s'.port < s'.blocks.length := by omega
    have hb : s.blocks[s.port]? = some s.blocks[s.port] := List.getElem?_eq_getElem hk
    have hb' : s'.blocks[s'.port]? = some s'.blocks[s'.port] := List.getElem?_eq_getElem hk'
    have hsame : s.blocks[s.port].SameVisible s'.blocks[s'.port] := by
      simpa [hport] using hblocks.get hk (by omega)
    refine .inl ⟨_, _, State.onPort_some f hb, State.onPort_some f hb', hport, hinputs, ?_⟩
    simpa only [hport] using forall₂_set hblocks s.port (hf _ _ hsame)
  · exact .inr ⟨State.onPort_none f (by omega), State.onPort_none f (by omega)⟩

/-- Settles O56: both machines deliver the same input, whose action does not tell their instances apart. -/
theorem uninitialisedContentsAreInvisible : Obligations.UninitialisedContentsAreInvisible := by
  intro s s' h
  have ⟨_, hinputs, hblocks⟩ := h
  cases hi : s.inputs with
  | nil => exact .inl ⟨s, s', step_idle hi, step_idle (hinputs ▸ hi), h⟩
  | cons inp rest =>
    rw [step_deliver hi, step_deliver (hinputs ▸ hi), State.deliver_eq, State.deliver_eq]
    cases hf : inp.action with
    | none => exact .inr (.inr ⟨_, rfl, rfl⟩)
    | some f =>
      have hdriven : ((s.withInputs rest).drive inp.block).SameVisible ((s'.withInputs rest).drive inp.block) :=
        ⟨rfl, rfl, hblocks⟩
      rcases hdriven.onPort (f := f) fun _ _ hab => hab.action hf with hnext | ⟨hfault, hfault'⟩
      · exact .inl hnext
      · exact .inr (.inl ⟨_, hfault, hfault'⟩)

end Sys2Proof.Machine
end

section
/-! PROOFS. The stored form of the state: the place of each byte, and that it restores bit for bit. -/

namespace Sys2Proof.Machine

/-! ### The place of each byte -/

theorem wordBytes_length (order : ByteOrder) (w : Word) : (wordBytes order w).length = 8 := by
  cases order <;> simp [wordBytes]

theorem wordBytes_little_getElem? (w : Word) {i : Nat} (hi : i < 8) : (wordBytes .little w)[i]? = some (byteOf w i) := by
  simp [wordBytes, hi]

theorem wordBytes_big_getElem? (w : Word) {i : Nat} (hi : i < 8) : (wordBytes .big w)[7 - i]? = some (byteOf w i) := by
  have hplace : 8 - 1 - (7 - i) = i := by omega
  rw [wordBytes, List.getElem?_reverse (by simp; omega), List.length_map, List.length_range, hplace]
  simp [hi]

theorem storeGen_getElem?_s0 (order : ByteOrder) (g : Gen) {i : Nat} (hi : i < 8) :
    (storeGen order g)[i]? = (wordBytes order g.s0)[i]? :=
  List.getElem?_append_left (by rwa [wordBytes_length])

theorem storeGen_getElem?_s1 (order : ByteOrder) (g : Gen) (i : Nat) :
    (storeGen order g)[8 + i]? = (wordBytes order g.s1)[i]? := by
  rw [storeGen, List.getElem?_append_right (by rw [wordBytes_length]; omega), wordBytes_length, Nat.add_sub_cancel_left]

theorem storeGen_length (order : ByteOrder) (g : Gen) : (storeGen order g).length = 16 := by
  simp [storeGen, wordBytes_length]

/-! ### Reading back -/

/-- One byte read: what stands above byte `m` moves up by one byte, and byte `m` comes in below it. -/
theorem shl64_ushiftRight_or_byteOf (w : Word) (m : Nat) :
    shl64 (w >>> (8 * (m + 1))) 8 ||| (byteOf w m).setWidth 64 = w >>> (8 * m) := by
  apply BitVec.eq_of_getLsbD_eq
  intro i hi
  by_cases h : i < 8
  · simp [shl64, byteOf, h, hi]
  · have hsum : 8 * (m + 1) + (i - 8) = 8 * m + i := by omega
    simp [shl64, byteOf, h, hi, hsum]

/-- Reading the bytes below byte `m` after all those above completes the word. -/
theorem foldl_bytes_below (w : Word) (m : Nat) :
    (((List.range m).map (byteOf w)).reverse).foldl (fun w b => shl64 w 8 ||| b.setWidth 64) (w >>> (8 * m)) = w := by
  induction m with
  | zero => simp
  | succ m ih =>
    rw [List.range_succ, List.map_append, List.reverse_append, List.map_singleton, List.reverse_singleton,
      List.singleton_append, List.foldl_cons, shl64_ushiftRight_or_byteOf, ih]

theorem wordOfBig_wordBytes (w : Word) : wordOfBig (wordBytes .big w) = w := by
  have hnone : w >>> (8 * 8) = 0 := BitVec.ushiftRight_eq_zero (by omega)
  have hall := foldl_bytes_below w 8
  rw [hnone] at hall
  exact hall

theorem wordOfBytes_wordBytes (order : ByteOrder) (w : Word) : wordOfBytes order (wordBytes order w) = w := by
  cases order with
  | little => exact wordOfBig_wordBytes w
  | big => exact wordOfBig_wordBytes w

theorem restoreGen_storeGen (order : ByteOrder) (g : Gen) : restoreGen order (storeGen order g) = some g := by
  have htake : (storeGen order g).take 8 = wordBytes order g.s0 := List.take_left' (wordBytes_length order g.s0)
  have hdrop : (storeGen order g).drop 8 = wordBytes order g.s1 := List.drop_left' (wordBytes_length order g.s0)
  rw [restoreGen, if_pos (storeGen_length order g), htake, hdrop, wordOfBytes_wordBytes, wordOfBytes_wordBytes]

/-- Settles O57: the words read back from their bytes, and each byte's place is its order's. -/
theorem storedStateRestoresExactly : Obligations.StoredStateRestoresExactly := by
  refine ⟨restoreGen_storeGen, storeGen_length, fun g i hi => ⟨?_, ?_, ?_, ?_⟩⟩
  · rw [storeGen_getElem?_s0 _ _ hi, wordBytes_little_getElem? _ hi, byteOf]
  · rw [storeGen_getElem?_s1, wordBytes_little_getElem? _ hi, byteOf]
  · rw [storeGen_getElem?_s0 _ _ (by omega), wordBytes_big_getElem? _ hi, byteOf]
  · have hplace : 15 - i = 8 + (7 - i) := by omega
    rw [hplace, storeGen_getElem?_s1, wordBytes_big_getElem? _ hi, byteOf]

end Sys2Proof.Machine
end

section
/-! PROOFS. A step over a request that decodes to a command. -/

namespace Sys2Proof.Machine

theorem State.issue_of_op {req : Request} {i : Instr} (s : State) (h : decode req = .op i) : s.issue req = exec i s := by
  simp only [State.issue, h]

/-- Settles O5: the request is taken off the list, its interface driven, and issuing it there runs what it decodes to. -/
theorem stepRunsDecodedCommand : Obligations.StepRunsDecodedCommand := by
  intro s k r rest i hinputs hdecode
  calc step s
    _ = (s.withInputs rest).deliver (.command k r) := step_deliver hinputs
    _ = ((s.withInputs rest).drive k).issue r := rfl
    _ = exec i ((s.withInputs rest).drive k) := State.issue_of_op _ hdecode
    _ = exec i { s with port := k, inputs := rest } := rfl

end Sys2Proof.Machine
end

section
/-! PROOFS. The encoder and the decoder undo each other; which requests are legal; which ports decoding reads. -/

namespace Sys2Proof

/-! ### Round trip -/

theorem encode_cmd (i : Instr) : (encode i).cmd = cmdOf i := by
  cases i <;> rfl

theorem decode_encode (i : Instr) : decode (encode i) = .op i := by
  cases i with
  | seed v => exact decode_0x01 (cmdOf_seed v)
  | next => exact decode_0x02 rfl
  | jump32 => exact decode_0x03 rfl
  | jump64 => exact decode_0x04 rfl
  | jump96 => exact decode_0x05 rfl
  | load a b => exact decode_0x06 (cmdOf_load a b)
  | read => exact decode_0x07 rfl

/-- The three fields of a request are told apart in its 136 bits (R57). -/
theorem Request.ofBits_toBits (r : Request) : Request.ofBits 136 r.toBits = r := by
  obtain ⟨cmd, din0, din1⟩ := r
  have hcmd := cmd.isLt
  have hdin0 := din0.isLt
  have hdin1 := din1.isLt
  simp only [Request.ofBits, Request.toBits, Request.mk.injEq]
  refine ⟨?_, ?_, ?_⟩ <;> apply BitVec.eq_of_toNat_eq <;> rw [BitVec.toNat_ofNat] <;> omega

theorem decodeTableWord_toBits (r : Request) : decodeTableWord 136 r.toBits = (decode r).instr? := by
  rw [decodeTableWord, Request.ofBits_toBits]

/-- A command is named by one CMD byte only (R58). -/
theorem cmd_eq_of_decode_op {r : Request} {i : Instr} (h : decode r = .op i) : r.cmd = cmdOf i := by
  rcases decode_cases r with hc | hc | hc | hc | hc | hc | hc | hd
  · obtain rfl := Decoded.op.inj ((decode_0x01 hc).symm.trans h)
    rw [hc, cmdOf_seed]
  · obtain rfl := Decoded.op.inj ((decode_0x02 hc).symm.trans h)
    exact hc
  · obtain rfl := Decoded.op.inj ((decode_0x03 hc).symm.trans h)
    exact hc
  · obtain rfl := Decoded.op.inj ((decode_0x04 hc).symm.trans h)
    exact hc
  · obtain rfl := Decoded.op.inj ((decode_0x05 hc).symm.trans h)
    exact hc
  · obtain rfl := Decoded.op.inj ((decode_0x06 hc).symm.trans h)
    rw [hc, cmdOf_load]
  · obtain rfl := Decoded.op.inj ((decode_0x07 hc).symm.trans h)
    exact hc
  · simp [hd] at h

/-! ### Legality -/

theorem decode_eq_illegal_iff (r : Request) :
    decode r = .illegal ↔ r.cmd.extractLsb' 3 5 ≠ 0 ∨ r.cmd.extractLsb' 0 3 = 0 := by
  refine ⟨fun h => ?_, fun h => h.elim decode_illegal_of_rsv decode_illegal_of_op⟩
  unfold decode at h
  split_ifs at h with hrsv hop
  · exact .inl hrsv
  · exact .inr hop

/-- `CMD[7:3]` and `CMD[2:0]` are the quotient and the remainder of the CMD byte by 8 (R57). -/
theorem rsv_ne_zero_or_op_eq_zero_iff (c : Cmd) :
    (c.extractLsb' 3 5 ≠ 0 ∨ c.extractLsb' 0 3 = 0) ↔ (c.toNat = 0x00 ∨ 0x08 ≤ c.toNat) := by
  have hlt := c.isLt
  simp only [ne_eq, ← BitVec.toNat_inj, BitVec.extractLsb'_toNat, BitVec.ofNat_eq_ofNat, BitVec.toNat_ofNat,
    Nat.shiftRight_eq_div_pow]
  omega

theorem decode_eq_illegal_iff_toNat (r : Request) :
    decode r = .illegal ↔ r.cmd.toNat = 0x00 ∨ 0x08 ≤ r.cmd.toNat :=
  (decode_eq_illegal_iff r).trans (rsv_ne_zero_or_op_eq_zero_iff r.cmd)

/-! ### Ignored ports -/

/-- Decoding reads the CMD byte, DIN0 for SEED, and both ports for LOAD (R59, R60). -/
theorem decode_congr {r r' : Request} (hcmd : r.cmd = r'.cmd) (hseed : r.cmd = 0x01 → r.din0 = r'.din0)
    (hload : r.cmd = 0x06 → r.din0 = r'.din0 ∧ r.din1 = r'.din1) : decode r = decode r' := by
  rcases decode_cases r with h | h | h | h | h | h | h | h
  · rw [decode_0x01 h, decode_0x01 (hcmd ▸ h), hseed h]
  · rw [decode_0x02 h, decode_0x02 (hcmd ▸ h)]
  · rw [decode_0x03 h, decode_0x03 (hcmd ▸ h)]
  · rw [decode_0x04 h, decode_0x04 (hcmd ▸ h)]
  · rw [decode_0x05 h, decode_0x05 (hcmd ▸ h)]
  · obtain ⟨h0, h1⟩ := hload h
    rw [decode_0x06 h, decode_0x06 (hcmd ▸ h), h0, h1]
  · rw [decode_0x07 h, decode_0x07 (hcmd ▸ h)]
  · rw [h, (decode_eq_illegal_congr hcmd).mp h]

end Sys2Proof
end

section
/-! PROOFS. The statements about the encoding: round trip, the opcode map, illegal commands and ignored ports. -/

namespace Sys2Proof.Machine

/-- Settles O1: decoding undoes encoding, the 136 bits keep the request, and a command has one CMD byte. -/
theorem encodedCommandReadsBack : Obligations.EncodedCommandReadsBack := by
  refine ⟨decode_encode, fun i => ?_, fun i r h => ?_⟩
  · rw [decodeTableWord_toBits, decode_encode, Decoded.instr?]
  · rw [cmd_eq_of_decode_op h, encode_cmd]

/-- Settles O2: the two checks on the CMD byte leave 0x01 to 0x07, and any other byte raises its fault. -/
theorem exactlySevenLegalCommands : Obligations.ExactlySevenLegalCommands := by
  refine ⟨decode_eq_illegal_iff, decode_eq_illegal_iff_toNat, fun s b k r rest hi hb hcmd => ?_⟩
  rw [step_command hi hb, Block.take_of_illegal ((decode_eq_illegal_iff_toNat r).mpr hcmd)]
  rfl

/-- Issuing a request reads no more of it than its CMD byte and what it decodes to (R67). -/
theorem State.issue_congr {r r' : Request} (s : State) (hcmd : r.cmd = r'.cmd) (hdecode : decode r = decode r') :
    s.issue r = s.issue r' := by
  rw [State.issue, State.issue, hdecode, hcmd]

/-- Settles O4: the two requests decode alike, so issuing them is the same. -/
theorem ignoredPortsHaveNoEffect : Obligations.IgnoredPortsHaveNoEffect := by
  intro s k r r' rest hcmd hseed hload
  rw [step_deliver rfl, step_deliver rfl]
  exact State.issue_congr _ hcmd (decode_congr hcmd hseed hload)

/-- Settles O3, by evaluating the decoder on the words written out. -/
theorem wordsOfTheOpcodeMap : Obligations.WordsOfTheOpcodeMap := by
  unfold Obligations.WordsOfTheOpcodeMap
  decide

end Sys2Proof.Machine
end

section
/-! PROOFS. The response of each command is the one of R61. -/

namespace Sys2Proof.Machine

/-- A command that reads the state answers what its body answers, or the fault's response (R61, R153). -/
theorem Block.reading_responses {b : Block} (cmd : Cmd) {body : Gen → Block → Block} {a : Response}
    (h : (body b.gen b).responses = b.responses ++ [a]) :
    (b.reading cmd body).responses = b.responses ++ [if b.init then a else Response.faulted] := by
  cases hb : b.init with
  | true => simp [Block.reading_init _ _ hb, h]
  | false => simp [Block.reading_not_init _ _ hb]

/-- Settles O35: the instance has taken the request, whose response is read off the command it decodes to. -/
theorem responsesFollowTheTable : Obligations.ResponsesFollowTheTable := by
  intro s t b c k r rest hi hb h hc
  obtain rfl := Host.Outcome.next.inj ((step_command hi hb).symm.trans h)
  obtain rfl : b.take r = c := by simpa [State.lt_of_block hb] using hc
  cases hd : decode r with
  | illegal => rw [Block.take_of_illegal hd]; rfl
  | op i =>
    rw [Block.take_of_op hd]
    cases i with
    | seed v => rfl
    | load x y => rfl
    | next => exact Block.reading_responses _ rfl
    | jump32 => exact Block.reading_responses _ rfl
    | jump64 => exact Block.reading_responses _ rfl
    | jump96 => exact Block.reading_responses _ rfl
    | read => exact Block.reading_responses _ rfl

end Sys2Proof.Machine
end

section
/-! PROOFS. The assembler: which lines are refused, and the request of each line. -/

namespace Sys2Proof

/-! ### Ranges of numbers -/

@[simp] theorem wordNumber_eq_false_iff (n : Nat) : wordNumber n = false ↔ 2 ^ 64 ≤ n := by
  simp [wordNumber]

@[simp] theorem byteNumber_eq_false_iff (n : Nat) : byteNumber n = false ↔ 2 ^ 8 ≤ n := by
  simp [byteNumber]

@[simp] theorem wordNumber_toNat (w : Word) : wordNumber w.toNat = true := decide_eq_true w.isLt

@[simp] theorem byteNumber_toNat (c : Cmd) : byteNumber c.toNat = true := decide_eq_true c.isLt

/-! ### The two requests with operands -/

theorem encode_seed (v : Word) : encode (.seed v) = ⟨0x01, v, 0⟩ := by
  rw [encode, cmdOf_seed]

theorem encode_load (x y : Word) : encode (.load x y) = ⟨0x06, x, y⟩ := by
  rw [encode, cmdOf_load]

namespace Machine

/-! ### Lines -/

theorem assemble_eq_none_iff (line : AsmLine) : assemble line = none ↔ line.wellFormed = false := by
  simp [assemble]

theorem assemble_of_wellFormed {line : AsmLine} (h : line.wellFormed = true) : assemble line = some line.request :=
  if_pos h

theorem assemble_seed_toNat (v : Word) : assemble (.seed v.toNat) = some (encode (.seed v)) := by
  rw [assemble_of_wellFormed (by simp [AsmLine.wellFormed])]
  simp [AsmLine.request]

theorem assemble_load_toNat (x y : Word) : assemble (.load x.toNat y.toNat) = some (encode (.load x y)) := by
  rw [assemble_of_wellFormed (by simp [AsmLine.wellFormed])]
  simp [AsmLine.request]

theorem assemble_raw_toNat (r : Request) : assemble (.raw r.cmd.toNat r.din0.toNat r.din1.toNat) = some r := by
  rw [assemble_of_wellFormed (by simp [AsmLine.wellFormed])]
  simp [AsmLine.request]

/-- Settles O58: a line is refused when a number is out of its range; any other gives its row's request (R68). -/
theorem assemblerLinesStandForRequests : Obligations.AssemblerLinesStandForRequests := by
  refine ⟨fun n => ?_, fun m n => ?_, fun c m n => ?_, fun v => ⟨?_, encode_seed v⟩, ⟨rfl, rfl⟩, ⟨rfl, rfl⟩, ⟨rfl, rfl⟩,
    ⟨rfl, rfl⟩, fun x y => ⟨?_, encode_load x y⟩, ⟨rfl, rfl⟩, decode_encode, assemble_raw_toNat⟩
  · rw [assemble_eq_none_iff, AsmLine.wellFormed, wordNumber_eq_false_iff]
  · rw [assemble_eq_none_iff, AsmLine.wellFormed, Bool.and_eq_false_iff, wordNumber_eq_false_iff,
      wordNumber_eq_false_iff]
  · rw [assemble_eq_none_iff, AsmLine.wellFormed, Bool.and_eq_false_iff, Bool.and_eq_false_iff,
      byteNumber_eq_false_iff, wordNumber_eq_false_iff, wordNumber_eq_false_iff, or_assoc]
  · rw [assemble_seed_toNat, encode_seed]
  · rw [assemble_load_toNat, encode_load]

end Machine

end Sys2Proof
end

section
/-! PROOFS. The shifts and the rotate of the datapath: each bit of the result, and the number it stands for. -/

namespace Sys2Proof.Machine

/-! ### Logical shifts -/

theorem shl64_getLsbD (x : Word) (n : Nat) {i : Nat} (hi : i ≤ 63) :
    (shl64 x n).getLsbD i = if n ≤ i then x.getLsbD (i - n) else false := by
  rw [shl64, BitVec.getLsbD_shiftLeft]
  by_cases h : n ≤ i
  · simp [h, show i < 64 by omega]
  · simp [h, Nat.lt_of_not_le h]

theorem lsr64_getLsbD (x : Word) {n i : Nat} (hn : n ≤ 63) :
    (lsr64 x n).getLsbD i = if i ≤ 63 - n then x.getLsbD (i + n) else false := by
  rw [lsr64, BitVec.getLsbD_ushiftRight, Nat.add_comm]
  split
  · rfl
  · exact BitVec.getLsbD_of_ge x _ (by omega)

@[simp] theorem shl64_by_zero (x : Word) : shl64 x 0 = x := BitVec.shiftLeft_zero x

@[simp] theorem lsr64_by_zero (x : Word) : lsr64 x 0 = x := BitVec.ushiftRight_zero x

theorem shl64_toNat (x : Word) (n : Nat) : (shl64 x n).toNat = x.toNat * 2 ^ n % 2 ^ 64 := by
  rw [shl64, BitVec.toNat_shiftLeft, Nat.shiftLeft_eq]

theorem lsr64_toNat (x : Word) (n : Nat) : (lsr64 x n).toNat = x.toNat / 2 ^ n := by
  rw [lsr64, BitVec.toNat_ushiftRight, Nat.shiftRight_eq_div_pow]

/-- Settles O20: the bits and the numbers of the two logical shifts. -/
theorem logicalShiftsFillWithZeros : Obligations.LogicalShiftsFillWithZeros :=
  ⟨fun x n _ => shl64_toNat x n, fun x n _ _ hi => shl64_getLsbD x n hi, fun x n _ => lsr64_toNat x n,
    fun x _ _ hn _ => lsr64_getLsbD x hn, fun x => ⟨shl64_by_zero x, lsr64_by_zero x⟩⟩

/-! ### Arithmetic shift -/

theorem sar64_getLsbD (x : Word) {n i : Nat} (hn : n ≤ 63) (hi : i ≤ 63) :
    (sar64 x n).getLsbD i = if i ≤ 63 - n then x.getLsbD (i + n) else x.getLsbD 63 := by
  rw [sar64, BitVec.getLsbD_sshiftRight, BitVec.msb_eq_getLsbD_last]
  by_cases h : i ≤ 63 - n
  · simp [h, show ¬ 64 ≤ i by omega, show n + i < 64 by omega, Nat.add_comm]
  · simp [h, show ¬ 64 ≤ i by omega, show ¬ n + i < 64 by omega]

/-- Lean's division of integers by a positive number rounds toward −∞. -/
theorem sar64_toInt (x : Word) (n : Nat) : (sar64 x n).toInt = x.toInt / 2 ^ n := by
  rw [sar64, BitVec.toInt_sshiftRight, Int.shiftRight_eq_div_pow, Int.natCast_pow, Int.cast_ofNat_Int]

/-- Settles O21: the bits and the signed number of the arithmetic shift; its corner cases are computed. -/
theorem arithmeticShiftKeepsSign : Obligations.ArithmeticShiftKeepsSign := by
  refine ⟨fun x _ _ hn hi => sar64_getLsbD x hn hi, fun x n _ => sar64_toInt x n, ?_⟩
  decide

/-! ### Rotate -/

theorem rotl64_by_zero (x : Word) : rotl64 x 0 = x := by simp [rotl64]

/-- A bit of the rotated word comes from the left shift where `k ≤ i` and from the right shift below. -/
theorem rotl64_getLsbD (x : Word) {k i : Nat} (hk : k ≤ 63) (hi : i ≤ 63) :
    (rotl64 x k).getLsbD i = x.getLsbD ((i + (64 - k)) % 64) := by
  obtain rfl | hpos := Nat.eq_zero_or_pos k
  · rw [rotl64_by_zero, show (i + (64 - 0)) % 64 = i by omega]
  · rw [rotl64, show (64 - k) % 64 = 64 - k by omega, BitVec.getLsbD_or, shl64_getLsbD x k hi,
      lsr64_getLsbD x (by omega)]
    by_cases h : k ≤ i
    · simp [h, show ¬ i ≤ 63 - (64 - k) by omega, show (i + (64 - k)) % 64 = i - k by omega]
    · simp [h, show i ≤ 63 - (64 - k) by omega, show (i + (64 - k)) % 64 = i + (64 - k) by omega]

/-- Settles O19: the formula is the definition, and each bit comes from one of the two shifts. -/
theorem rotateMovesBits : Obligations.RotateMovesBits :=
  ⟨fun _ _ _ => rfl, fun x _ _ hk hi => rotl64_getLsbD x hk hi, rotl64_by_zero⟩

end Sys2Proof.Machine
end

section
/-! PROOFS. T is a linear bijection that fixes (0, 0); the output scrambler is not linear. -/

namespace Sys2Proof.Machine

/-! ### Linearity -/

/-- Both shifts of f distribute over XOR. -/
theorem mix_xor (x y : Word) : mix (x ^^^ y) = mix x ^^^ mix y := by
  have hshl : shl64 (x ^^^ y) shlA = shl64 x shlA ^^^ shl64 y shlA := BitVec.shiftLeft_xor_distrib x y shlA
  have hsar : sar64 (x ^^^ y) sarB = sar64 x sarB ^^^ sar64 y sarB := BitVec.sshiftRight_xor_distrib x y sarB
  rw [mix, mix, mix, hshl, hsar]
  ac_rfl

theorem transition_xor (a b : Gen) : transition (Gen.xor a b) = Gen.xor (transition a) (transition b) := by
  ext1
  · rfl
  · simp only [transition_s1, Gen.xor_s0, Gen.xor_s1, mix_xor]
    ac_rfl

@[simp] theorem transition_zero : transition Gen.zero = Gen.zero := by decide

/-- Settles O22: T is built of XOR and of f, which is linear. -/
theorem transitionIsLinear : Obligations.TransitionIsLinear := ⟨transition_xor, transition_zero⟩

/-- Settles O24: at the states (1, 0) and (2, 0), `MUL_K + 2 * MUL_K` has carries, which XOR drops. -/
theorem outputIsNotLinear : Obligations.OutputIsNotLinear := ⟨⟨1, 0⟩, ⟨2, 0⟩, by decide⟩

/-! ### The map f is a bijection -/

theorem mix_getLsbD (x : Word) {i : Nat} (hi : i ≤ 63) :
    (mix x).getLsbD i =
      ((if 2 ≤ i then x.getLsbD (i - 2) else false) ^^ (if i ≤ 44 then x.getLsbD (i + 19) else x.getLsbD 63)) := by
  rw [mix, BitVec.getLsbD_xor, shl64_getLsbD x shlA hi, sar64_getLsbD x (by decide) hi]
  rfl

/-- Where f vanishes, its lowest two bits say that bits 19 and 20 of the word are 0, its bits up to 44 that the word
repeats after 21 bits, and its bits above 44 that bits 43 to 61 are the sign bit. -/
theorem bits_of_mix_eq_zero {x : Word} (h : mix x = 0) :
    x.getLsbD 19 = false ∧ x.getLsbD 20 = false ∧ (∀ j ≤ 42, x.getLsbD j = x.getLsbD (j + 21)) ∧
      (∀ j, 43 ≤ j → j ≤ 61 → x.getLsbD j = x.getLsbD 63) := by
  have hbit {i : Nat} (hi : i ≤ 63) := (mix_getLsbD x hi).symm.trans (show (mix x).getLsbD i = false by simp [h])
  refine ⟨?_, ?_, fun j hj => ?_, fun j hlow hhigh => ?_⟩
  · simpa using hbit (i := 0) (by omega)
  · simpa using hbit (i := 1) (by omega)
  · simpa [hj] using hbit (i := j + 2) (by omega)
  · simpa [show ¬ j ≤ 42 by omega] using hbit (i := j + 2) (by omega)

/-- The sign bit is bit 19 by way of bits 61 and 40, so it is 0; then so are the upper 21 bits, and each lower
bit repeats one above it. -/
theorem eq_zero_of_mix_eq_zero {x : Word} (h : mix x = 0) : x = 0 := by
  obtain ⟨h19, h20, hrepeat, hsign⟩ := bits_of_mix_eq_zero h
  have h63 : x.getLsbD 63 = false := by
    rw [← hsign 61 (by omega) (by omega), ← hrepeat 40 (by omega), ← hrepeat 19 (by omega), h19]
  have h62 : x.getLsbD 62 = false := by rw [← hrepeat 41 (by omega), ← hrepeat 20 (by omega), h20]
  have hhigh : ∀ j > 42, x.getLsbD j = false := fun j hj => by
    obtain hlow | rfl | rfl | hge : j ≤ 61 ∨ j = 62 ∨ j = 63 ∨ 64 ≤ j := by omega
    · rw [hsign j hj hlow, h63]
    · exact h62
    · exact h63
    · exact BitVec.getLsbD_of_ge x j hge
  have hall : ∀ j, x.getLsbD j = false := Nat.strong_decreasing_induction ⟨42, hhigh⟩ fun j ih => by
    by_cases hj : j ≤ 42
    · rw [hrepeat j hj, ih (j + 21) (by omega)]
    · exact hhigh j (by omega)
  exact BitVec.eq_of_getLsbD_eq fun j _ => by simp [hall j]

theorem mix_injective : Function.Injective mix := by
  intro x y hxy
  have hzero : mix (x ^^^ y) = 0 := by simp [mix_xor, hxy]
  exact BitVec.xor_eq_zero_iff.mp (eq_zero_of_mix_eq_zero hzero)

theorem mix_bijective : Function.Bijective mix := Finite.injective_iff_bijective.mp mix_injective

/-! ### T is a bijection -/

/-- Any inverse of f gives the inverse of T in the form of R90. -/
theorem transition_mix_inverse {finv : Word → Word} (hf : Function.RightInverse finv mix) (n0 n1 : Word) :
    transition ⟨finv (n1 ^^^ n0), n0⟩ = ⟨n0, n1⟩ := by
  ext1
  · rfl
  · simp [transition_s1, hf (n1 ^^^ n0)]

theorem mix_inverse_transition {finv : Word → Word} (hf : Function.LeftInverse finv mix) (g : Gen) :
    (⟨finv ((transition g).s1 ^^^ (transition g).s0), (transition g).s0⟩ : Gen) = g := by
  ext1
  · simp [transition_s1, hf g.s0]
  · rfl

/-- Settles O23: f is injective because it is linear and only 0 goes to 0, and its inverse gives that of T. -/
theorem transitionIsBijective : Obligations.TransitionIsBijective := by
  obtain ⟨finv, hleft, hright⟩ := Function.bijective_iff_has_inverse.mp mix_bijective
  have hleftT := mix_inverse_transition hleft
  have hrightT := transition_mix_inverse hright
  have hbij : Function.Bijective transition := Function.bijective_iff_has_inverse.mpr
    ⟨fun n => ⟨finv (n.s1 ^^^ n.s0), n.s0⟩, hleftT, fun n => hrightT n.s0 n.s1⟩
  exact ⟨hbij, mix_xor, finv, hleft, hright, hrightT, hleftT⟩

/-! ### The degenerate state -/

theorem output_zero : output Gen.zero = 0 := by decide

theorem transitionPow_of_zero (n : Nat) : transitionPow n Gen.zero = Gen.zero := by
  induction n with
  | zero => rfl
  | succ n ih => rw [transitionPow_succ, ih, transition_zero]

/-- Settles O16: NEXT requests iterate T, whose powers fix (0, 0), where the output is 0. -/
theorem degenerateStreamIsZero : Obligations.DegenerateStreamIsZero := by
  refine ⟨output_zero, transition_zero, fun reqs s k b hr hi hk hb hg => ?_⟩
  obtain ⟨t, hrun, hblock, -⟩ := run_commands_block reqs [] s k b (by simpa using hi) hk
  rw [Block.takeAll_nexts hr hb] at hblock
  refine ⟨t, _, hrun, hblock, ?_, rfl, ?_⟩
  · simp only [Block.afterNexts, hg, transitionPow_of_zero]
  · simp only [Block.afterNexts, hg, transitionPow_of_zero, output_zero, List.map_const', List.length_range]
    rfl

end Sys2Proof.Machine
end

section
/-! PROOFS. The jump engine's map is linear and commutes with T; what such a map does to all states shows at (0, 1) and
(0, 2) alone; so each jump polynomial has an inverse, and no jump reaches (0, 0) from another state (R137). -/

namespace Sys2Proof

/-! ### Sums of states -/

theorem Gen.xor_xor_xor_comm (a b c d : Gen) :
    Gen.xor (Gen.xor a b) (Gen.xor c d) = Gen.xor (Gen.xor a c) (Gen.xor b d) := by
  ext1
  · simp only [Gen.xor_s0]; ac_rfl
  · simp only [Gen.xor_s1]; ac_rfl

theorem Gen.sum_map_xor {α : Type} (js : List α) (f h : α → Gen) :
    Gen.sum (js.map fun j => Gen.xor (f j) (h j)) = Gen.xor (Gen.sum (js.map f)) (Gen.sum (js.map h)) := by
  induction js with
  | nil => simp
  | cons j js ih => simp only [List.map_cons, Gen.sum_cons, ih, Gen.xor_xor_xor_comm (f j)]

theorem Gen.s0_xor_s1 (g : Gen) : Gen.xor ⟨g.s0, 0⟩ ⟨0, g.s1⟩ = g := by ext1 <;> simp

namespace Machine

/-! ### The engine's map -/

theorem transitionPow_xor (n : Nat) (a b : Gen) :
    transitionPow n (Gen.xor a b) = Gen.xor (transitionPow n a) (transitionPow n b) := by
  induction n with
  | zero => rfl
  | succ n ih => rw [transitionPow_succ, ih, transition_xor, ← transitionPow_succ, ← transitionPow_succ]

theorem transitionPow_transition (n : Nat) (g : Gen) : transitionPow n (transition g) = transition (transitionPow n g) :=
  (transitionPow_add n 1 g).symm

theorem transition_sum_map {α : Type} (js : List α) (f : α → Gen) :
    transition (Gen.sum (js.map f)) = Gen.sum (js.map fun j => transition (f j)) := by
  induction js with
  | nil => exact transition_zero
  | cons j js ih => rw [List.map_cons, List.map_cons, Gen.sum_cons, Gen.sum_cons, transition_xor, ih]

theorem jumpPoly_xor (a b : Gen) (w0 w1 : Word) :
    jumpPoly (Gen.xor a b) w0 w1 = Gen.xor (jumpPoly a w0 w1) (jumpPoly b w0 w1) := by
  simp only [jumpPoly_eq, transitionPow_xor, Gen.sum_map_xor, Gen.xor_xor_xor_comm]

theorem jumpPoly_transition (g : Gen) (w0 w1 : Word) :
    jumpPoly (transition g) w0 w1 = transition (jumpPoly g w0 w1) := by
  simp only [jumpPoly_eq, transitionPow_transition, transition_xor, transition_sum_map]

@[simp] theorem jumpPoly_zero (w0 w1 : Word) : jumpPoly Gen.zero w0 w1 = Gen.zero := by
  have h := jumpPoly_xor Gen.zero Gen.zero w0 w1
  simpa only [Gen.xor_self] using h

/-! ### States generated by T from two of them -/

@[simp] theorem mix_zero : mix 0#64 = 0#64 := by decide

theorem mix_twoPow : ∀ i < 62, mix (BitVec.twoPow 64 i) =
    BitVec.twoPow 64 (i + 2) ^^^ if 19 ≤ i then BitVec.twoPow 64 (i - 19) else 0 := by decide

/-- Bit `i + 2` is f of bit `i`, but for a lower bit that f may set too: f and XOR make every word of 1 and 2. -/
theorem mix_induction (P : Word → Prop) (one : P 1) (two : P 2) (map : ∀ x, P x → P (mix x))
    (xor : ∀ x y, P x → P y → P (x ^^^ y)) (x : Word) : P x := by
  have zero : P 0 := by simpa using xor 1 1 one one
  have bit : ∀ i, i < 64 → P (BitVec.twoPow 64 i) := by
    intro i
    induction i using Nat.strong_induction_on with
    | _ i ih =>
      intro hi
      match i with
      | 0 => exact one
      | 1 => exact two
      | i + 2 =>
        have hlow : P (if 19 ≤ i then BitVec.twoPow 64 (i - 19) else 0) := by
          split
          · exact ih (i - 19) (by omega) (by omega)
          · exact zero
        have hmap : P (mix (BitVec.twoPow 64 i)) := map _ (ih i (by omega) (by omega))
        have hsum := xor _ _ hmap hlow
        rwa [mix_twoPow i (by omega), BitVec.xor_assoc, BitVec.xor_self, BitVec.xor_zero] at hsum
  exact bits_induction P zero bit xor x

theorem transition_of_s1 (x : Word) : transition ⟨0, x⟩ = ⟨x, x⟩ := by
  ext1
  · rfl
  · simp [transition_s1]

theorem transition_of_s0 (x : Word) : transition ⟨x, 0⟩ = ⟨0, mix x⟩ := by
  ext1
  · rfl
  · simp [transition_s1]

/-- T and XOR make every state of (0, 1) and (0, 2). -/
theorem transition_induction (P : Gen → Prop) (one : P ⟨0, 1⟩) (two : P ⟨0, 2⟩) (map : ∀ g, P g → P (transition g))
    (xor : ∀ a b, P a → P b → P (Gen.xor a b)) (g : Gen) : P g := by
  have move (x : Word) (hx : P ⟨0, x⟩) : P ⟨x, 0⟩ := by
    have hsum := xor _ _ (map _ hx) hx
    rw [transition_of_s1] at hsum
    simpa [Gen.xor] using hsum
  have apply_mix (x : Word) (hx : P ⟨0, x⟩) : P ⟨0, mix x⟩ := transition_of_s0 x ▸ map _ (move x hx)
  have add (x y : Word) (hx : P ⟨0, x⟩) (hy : P ⟨0, y⟩) : P ⟨0, x ^^^ y⟩ := by simpa [Gen.xor] using xor _ _ hx hy
  have s1 (x : Word) : P ⟨0, x⟩ := mix_induction (fun x => P ⟨0, x⟩) one two apply_mix add x
  exact Gen.s0_xor_s1 g ▸ xor _ _ (move _ (s1 g.s0)) (s1 g.s1)

/-! ### Inverses of the jump polynomials -/

/-- The polynomial `{v1, v0}` undoes `{w1, w0}` on every state if it does so on (0, 1) and (0, 2). -/
theorem jumpPoly_leftInverse {w0 w1 v0 v1 : Word} (one : jumpPoly (jumpPoly ⟨0, 1⟩ w0 w1) v0 v1 = ⟨0, 1⟩)
    (two : jumpPoly (jumpPoly ⟨0, 2⟩ w0 w1) v0 v1 = ⟨0, 2⟩) :
    Function.LeftInverse (jumpPoly · v0 v1) (jumpPoly · w0 w1) :=
  transition_induction _ one two
    (fun g hg => by simp only [jumpPoly_transition, hg])
    (fun a b ha hb => by simp only [jumpPoly_xor, ha, hb])

theorem jumpPoly_eq_zero_iff {w0 w1 v0 v1 : Word} (h : Function.LeftInverse (jumpPoly · v0 v1) (jumpPoly · w0 w1))
    {g : Gen} : jumpPoly g w0 w1 = Gen.zero ↔ g = Gen.zero := by
  have hzero : (jumpPoly · w0 w1) Gen.zero = Gen.zero := jumpPoly_zero w0 w1
  exact h.injective.eq_iff' hzero

theorem jump32_of_one : jumpPoly ⟨0, 1⟩ j32W0 j32W1 = ⟨1, 0x9152E8129E39460D⟩ := by decide
theorem jump32_of_two : jumpPoly ⟨0, 2⟩ j32W0 j32W1 = ⟨2, 0xE2591BFF032265FB⟩ := by decide
theorem jump96_of_one : jumpPoly ⟨0, 1⟩ j96W0 j96W1 = ⟨1, 0x9152E8129E39460C⟩ := by decide
theorem jump96_of_two : jumpPoly ⟨0, 2⟩ j96W0 j96W1 = ⟨2, 0xE2591BFF032265F9⟩ := by decide

/-- The inverse of JUMP32's polynomial modulo P. -/
theorem jump32_leftInverse :
    Function.LeftInverse (jumpPoly · 0x93C54EA90B34876D 0xDD41429FFC114444) (jumpPoly · j32W0 j32W1) :=
  jumpPoly_leftInverse (by rw [jump32_of_one]; decide) (by rw [jump32_of_two]; decide)

/-- The inverse of JUMP96's polynomial modulo P. -/
theorem jump96_leftInverse :
    Function.LeftInverse (jumpPoly · 0x5CA65688D31E71A5 0xB0E4E654327634C6) (jumpPoly · j96W0 j96W1) :=
  jumpPoly_leftInverse (by rw [jump96_of_one]; decide) (by rw [jump96_of_two]; decide)

/-! ### States other than (0, 0) -/

theorem jump32_eq_zero_iff {g : Gen} : jumpPoly g j32W0 j32W1 = Gen.zero ↔ g = Gen.zero :=
  jumpPoly_eq_zero_iff jump32_leftInverse

theorem jump96_eq_zero_iff {g : Gen} : jumpPoly g j96W0 j96W1 = Gen.zero ↔ g = Gen.zero :=
  jumpPoly_eq_zero_iff jump96_leftInverse

/-- The closed form's s1 is f of the old s0, which is 0 for 0 alone. -/
theorem jumpClosed64_eq_zero_iff {g : Gen} : jumpClosed64 g = Gen.zero ↔ g = Gen.zero := by
  refine ⟨fun h => ?_, fun h => by rw [h]; decide⟩
  have hs0 : g.s0 = 0 := eq_zero_of_mix_eq_zero (congrArg Gen.s1 h)
  have hxor : g.s0 ^^^ g.s1 = 0 := congrArg Gen.s0 h
  ext1
  · exact hs0
  · simpa [hs0] using hxor

theorem transition_eq_zero_iff {g : Gen} : transition g = Gen.zero ↔ g = Gen.zero :=
  transitionIsBijective.1.injective.eq_iff' transition_zero

end Machine

end Sys2Proof
end

section
/-! PROOFS. The seeding mixer: its inverse, and the states it makes. -/

namespace Sys2Proof.Machine

/-- The inverse of `lcg`: `0xC097EF87329E28A5` is the inverse of LCG_A (R103). -/
def lcgInv (w : Word) : Word := 0xC097EF87329E28A5 * (w - lcgC)

theorem lcgInv_lcg : Function.LeftInverse lcgInv lcg := fun v => by
  have hinv : (0xC097EF87329E28A5 : Word) * lcgA = 1 := by decide
  rw [lcgInv, lcg, add_sub_cancel_left, ← mul_assoc, hinv, one_mul]

theorem lcg_lcgInv : Function.RightInverse lcgInv lcg := fun w => by
  have hinv : lcgA * (0xC097EF87329E28A5 : Word) = 1 := by decide
  rw [lcgInv, lcg, ← mul_assoc, hinv, one_mul, add_sub_cancel]

theorem lcg_eq_zero_iff (v : Word) : lcg v = 0 ↔ v = 0x9995B5B621535015 :=
  lcgInv_lcg.injective.eq_iff' (by decide)

theorem lcg_not_both_zero (v : Word) : ¬ (lcg v = 0 ∧ lcg (lcg v) = 0) := fun ⟨h0, h1⟩ =>
  absurd (h0 ▸ h1) (by decide)

theorem seedState_ne_zero (v : Word) : seedState v ≠ Gen.zero := fun h =>
  lcg_not_both_zero v ⟨congrArg Gen.s0 h, congrArg Gen.s1 h⟩

theorem seedState_injective : Function.Injective seedState := fun _ _ h => lcgInv_lcg.injective (congrArg Gen.s0 h)

/-- Settles O8: `lcg` has an inverse, and `lcg 0` is not 0. -/
theorem seedNeverDegenerate : Obligations.SeedNeverDegenerate :=
  ⟨lcg_not_both_zero, Function.bijective_iff_has_inverse.mpr ⟨lcgInv, lcgInv_lcg, lcg_lcgInv⟩,
    fun _ _ h => seedState_injective h, lcg_eq_zero_iff, by decide, by decide⟩

/-- Settles O9: every word is `lcg` of some seed, so s0 is free and s1 follows from it. -/
theorem seedReachesLcgPairs : Obligations.SeedReachesLcgPairs := by
  refine fun g => ⟨?_, fun h => ⟨lcgInv g.s0, ?_⟩⟩
  · rintro ⟨v, rfl⟩
    rfl
  · have hs0 : lcg (lcgInv g.s0) = g.s0 := lcg_lcgInv g.s0
    ext1
    · exact hs0
    · rw [h]
      exact congrArg lcg hs0

end Sys2Proof.Machine
end

section
/-! PROOFS. Without a LOAD of (0, 0) no instance becomes degenerate (R24, R179). -/

namespace Sys2Proof.Machine

/-- The instance holds no value, or one other than (0, 0): what `State.NonDegenerate` asks of each instance. -/
def Block.NonDegenerate (b : Block) : Prop := b.init = true → b.gen ≠ Gen.zero

theorem Block.restart_nonDegenerate (k : Nat) (b : Block) : (b.restart k).NonDegenerate := by
  simp [Block.NonDegenerate]

theorem Request.load_ne_zero {r : Request} (hcmd : r.cmd = 0x06) (hr : decode r ≠ .op (.load 0 0)) :
    (⟨r.din0, r.din1⟩ : Gen) ≠ Gen.zero := fun h => hr <| by
  obtain ⟨h0, h1⟩ := Gen.mk.inj h
  rw [decode_0x06 hcmd, h0, h1]

/-- SEED makes no (0, 0), NEXT and the jumps make it of nothing else, and the rest leave the pair. -/
theorem Block.NonDegenerate.take {b : Block} (hb : b.NonDegenerate) {r : Request} (hr : decode r ≠ .op (.load 0 0)) :
    (b.take r).NonDegenerate := by
  rcases Block.take_cases r b with ⟨-, h⟩ | ⟨hcmd, h⟩ | ⟨hinit, -, h⟩ | ⟨hinit, -, h⟩ | ⟨hinit, -, h⟩ | ⟨hinit, -, h⟩ |
    ⟨-, -, h⟩ | ⟨-, -, -, -, h⟩ | ⟨-, h⟩ <;> rw [h]
  · exact fun _ => seedState_ne_zero r.din0
  · exact fun _ => Request.load_ne_zero hcmd hr
  · exact fun _ => transition_eq_zero_iff.not.mpr (hb hinit)
  · exact fun _ => jump32_eq_zero_iff.not.mpr (hb hinit)
  · exact fun _ => jumpClosed64_eq_zero_iff.not.mpr (hb hinit)
  · exact fun _ => jump96_eq_zero_iff.not.mpr (hb hinit)
  · exact hb
  · exact hb
  · exact hb

theorem Block.NonDegenerate.action {b : Block} (hb : b.NonDegenerate) {inp : Input} {f : Block → Block}
    (hf : inp.action = some f) (hload : inp.loadsZero = false) : (f b).NonDegenerate := by
  rcases Input.action_cases hf with ⟨k, r, rfl, rfl⟩ | rfl
  · exact hb.take (of_decide_eq_false hload)
  · exact b.restart_nonDegenerate _

/-- Settles O55: a step lets one instance take the action of one input, and takes that input off the list. -/
theorem stepKeepsNonDegenerate : Obligations.StepKeepsNonDegenerate := by
  intro s t hs hloads h
  rcases step_cases h with ⟨-, rfl⟩ | ⟨inp, rest, f, b, hi, hf, hb, rfl⟩
  · exact ⟨hs, hloads⟩
  · rw [hi] at hloads
    have hfb : (f b).NonDegenerate :=
      Block.NonDegenerate.action (hs b (List.mem_of_getElem? hb)) hf (hloads inp List.mem_cons_self)
    refine ⟨fun c hc => ?_, fun inp' hmem => hloads inp' (List.mem_cons_of_mem _ hmem)⟩
    rcases List.mem_or_eq_of_mem_set hc with hc | rfl
    · exact hs c hc
    · exact hfb

end Sys2Proof.Machine
end

section
/-! PROOFS. SEED, LOAD and READ one by one: encoding, whole effect and examples. -/

namespace Sys2Proof.Machine

/-- A command from a state whose driven instance exists: that instance takes its effect. -/
theorem exec_of_block (i : Instr) {s : State} {b : Block} (hb : s.blocks[s.port]? = some b) :
    exec i s = .next { s with blocks := s.blocks.set s.port (b.effect i) } :=
  (exec_eq_onPort i s).trans (State.onPort_some _ hb)

/-- `lcg` with its factors and terms in the order of R100. -/
theorem lcg_eq_mul_add (v : Word) : lcg v = v * lcgA + lcgC := by
  rw [lcg, add_comm, mul_comm]

/-- Settles O6: SEED's effect reads nothing of the instance; its values are computed. -/
theorem seedCommand : Obligations.SeedCommand := by
  refine ⟨lcg_eq_mul_add, fun v d1 => decode_0x01 rfl, fun v s b hb => exec_of_block _ hb, ?_⟩
  decide

/-- Settles O10: LOAD's effect reads nothing of the instance; the example is computed. -/
theorem loadCommand : Obligations.LoadCommand :=
  ⟨fun x y => decode_0x06 rfl, fun x y s b hb => exec_of_block _ hb, by decide⟩

theorem seedState_401 : seedState 401 = ⟨0x6C64F673ED93B6CC, 0x97C703D5F6C9D72B⟩ := by decide

/-- Settles O11: READ's effect, with a value and without one. -/
theorem readCommand : Obligations.ReadCommand := by
  refine ⟨fun x y => decode_0x07 rfl, fun s b hb hinit => ?_, fun s b hb hinit => ?_, seedState_401⟩
  · rw [exec_of_block _ hb, Block.effect_read_init hinit]
    rfl
  · rw [exec_of_block _ hb, Block.effect, Block.reading_not_init _ _ hinit]
    rfl

/-- Settles O7: whatever the instance is after the list of requests, SEED overwrites its pair and `init`. -/
theorem seedForgetsHistory : Obligations.SeedForgetsHistory := by
  intro reqs v d1 s k b hi hb
  obtain ⟨t, hrun, hblock, -⟩ :=
    run_commands_block (reqs ++ [⟨0x01, v, d1⟩]) [] s k b (by simpa using hi) hb
  rw [List.length_append, List.length_singleton] at hrun
  rw [Block.takeAll_append, Block.takeAll_cons, Block.takeAll_nil, Block.take_seed rfl] at hblock
  exact ⟨t, _, hrun, hblock, rfl, rfl⟩

end Sys2Proof.Machine
end

section
/-! PROOFS. Two instances that hold the same value answer alike (R116); a LOAD of what READ returned hands the value
on (R107). -/

namespace Sys2Proof.Machine

/-! ### One request -/

theorem Block.value_eq_iff {a b : Block} : a.value = b.value ↔ a.init = b.init ∧ (a.init = true → a.gen = b.gen) := by
  cases ha : a.init <;> cases hb : b.init <;> simp [Block.value, ha, hb]

/-- `a` has become `a'` and `b` has become `b'`, with the same new responses and, at the end, the same value. -/
def Block.Alike (rs : List Response) (a b a' b' : Block) : Prop :=
  a'.responses = a.responses ++ rs ∧ b'.responses = b.responses ++ rs ∧ a'.value = b'.value

theorem Block.raiseFault_alike {a b : Block} (h : a.value = b.value) (kind : FaultKind) (info : Cmd) :
    Block.Alike [Response.faulted] a b (a.raiseFault kind info) (b.raiseFault kind info) := ⟨rfl, rfl, h⟩

theorem Block.write_respond_alike {a b : Block} (hinit : a.init = b.init) (g : Gen) (x : Response) :
    Block.Alike [x] a b ((a.write g).respond x) ((b.write g).respond x) :=
  ⟨rfl, rfl, Block.value_eq_iff.mpr ⟨hinit, fun _ => rfl⟩⟩

/-- A command that reads the state passes the value to its body, or finds none on either instance. -/
theorem Block.reading_alike {a b : Block} (h : a.value = b.value) (cmd : Cmd) {body : Gen → Block → Block}
    (hbody : ∀ g, ∃ x, Block.Alike [x] a b (body g a) (body g b)) :
    ∃ x, Block.Alike [x] a b (a.reading cmd body) (b.reading cmd body) := by
  obtain ⟨hinit, hgen⟩ := Block.value_eq_iff.mp h
  cases ha : a.init with
  | true =>
    rw [Block.reading_init _ _ ha, Block.reading_init _ _ (hinit ▸ ha), hgen ha]
    exact hbody b.gen
  | false =>
    rw [Block.reading_not_init _ _ ha, Block.reading_not_init _ _ (hinit ▸ ha)]
    exact ⟨_, Block.raiseFault_alike h _ _⟩

theorem Block.effect_alike {a b : Block} (h : a.value = b.value) (i : Instr) :
    ∃ x, Block.Alike [x] a b (a.effect i) (b.effect i) := by
  obtain ⟨hinit, -⟩ := Block.value_eq_iff.mp h
  cases i with
  | seed v => exact ⟨_, rfl, rfl, rfl⟩
  | load x y => exact ⟨_, rfl, rfl, rfl⟩
  | next => exact Block.reading_alike h _ fun _ => ⟨_, Block.write_respond_alike hinit _ _⟩
  | jump32 => exact Block.reading_alike h _ fun _ => ⟨_, Block.write_respond_alike hinit _ _⟩
  | jump64 => exact Block.reading_alike h _ fun _ => ⟨_, Block.write_respond_alike hinit _ _⟩
  | jump96 => exact Block.reading_alike h _ fun _ => ⟨_, Block.write_respond_alike hinit _ _⟩
  | read => exact Block.reading_alike h _ fun _ => ⟨_, rfl, rfl, h⟩

theorem Block.take_alike {a b : Block} (h : a.value = b.value) (r : Request) :
    ∃ x, Block.Alike [x] a b (a.take r) (b.take r) := by
  cases hd : decode r with
  | op i =>
    rw [Block.take_of_op hd, Block.take_of_op hd]
    exact Block.effect_alike h i
  | illegal =>
    rw [Block.take_of_illegal hd, Block.take_of_illegal hd]
    exact ⟨_, Block.raiseFault_alike h _ _⟩

/-! ### Lists of requests -/

theorem Block.takeAll_alike (reqs : List Request) {a b : Block} (h : a.value = b.value) :
    ∃ rs : List Response, rs.length = reqs.length ∧ Block.Alike rs a b (a.takeAll reqs) (b.takeAll reqs) := by
  induction reqs generalizing a b with
  | nil => exact ⟨[], rfl, by simp, by simp, h⟩
  | cons r reqs ih =>
    obtain ⟨x, ha, hb, hvalue⟩ := Block.take_alike h r
    obtain ⟨rs, hlen, has, hbs, hvalues⟩ := ih hvalue
    exact ⟨x :: rs, by simp [hlen], by simp [has, ha], by simp [hbs, hb], hvalues⟩

theorem Block.takeAll_init (reqs : List Request) {b : Block} (hb : b.init = true) : (b.takeAll reqs).init = true := by
  induction reqs generalizing b with
  | nil => exact hb
  | cons r reqs ih => exact ih (by simp [Block.take_init, hb])

/-! ### READ, then LOAD -/

theorem Block.takeAll_read_load {b : Block} {rd : Request} (hrd : rd.cmd = 0x07) (hb : b.init = true) :
    b.takeAll [rd, ⟨0x06, b.gen.s0, b.gen.s1⟩] =
      ((b.respond (Response.pair b.gen)).assign b.gen).respond Response.done := by
  rw [Block.takeAll_cons, Block.take_read hrd hb, Block.takeAll_cons, Block.takeAll_nil, Block.take_load rfl]

/-- A LOAD of an instance's value gives any instance that value. -/
theorem Block.take_load_value {a b : Block} (hb : b.init = true) :
    (a.take ⟨0x06, b.gen.s0, b.gen.s1⟩).value = b.value := by
  rw [Block.take_load rfl, Block.value_eq_iff]
  exact ⟨hb.symm, fun _ => rfl⟩

/-- Settles O12: READ then LOAD writes the pair that was there; and after the LOAD the two instances hold the same
value, so they answer alike. -/
theorem readThenLoadRestores : Obligations.ReadThenLoadRestores := by
  refine ⟨fun s k b rd ld hk hb hrd hld hi => ?_, fun s s' k j b a reqs hk hb hblocks hj hi hi' => ?_⟩
  · subst hld
    obtain ⟨t, hrun, hblock, -⟩ := run_commands_block [rd, _] [] s k b hi hk
    rw [Block.takeAll_read_load hrd hb] at hblock
    exact ⟨t, _, hrun, hblock, by simp [Response.pair, Response.done], rfl, rfl⟩
  · obtain ⟨t, hrun, hblock, -⟩ := run_commands_block reqs [] s k b (by simpa using hi) hk
    obtain ⟨t', hrun', hblock', -⟩ := run_commands_block (⟨0x06, b.gen.s0, b.gen.s1⟩ :: reqs) [] s' j a
      (by simpa using hi') (hblocks ▸ hj)
    obtain ⟨rs, hlen, hresponses', hresponses, hvalue⟩ := Block.takeAll_alike reqs (Block.take_load_value (a := a) hb)
    obtain ⟨hinit, hgen⟩ := Block.value_eq_iff.mp hvalue
    have hdone : (b.takeAll reqs).init = true := Block.takeAll_init reqs hb
    refine ⟨t, t', _, _, rs, hrun, hrun', hblock, hblock', hlen, hresponses, ?_, hgen (hinit ▸ hdone)⟩
    rw [Block.takeAll_cons, hresponses', Block.take_load rfl]
    simp [Response.done]

end Sys2Proof.Machine
end

section
/-! PROOFS. NEXT by itself, the same requests to two instances that hold the same state (R116), and NEXT requests from a
state other than (0, 0) (R118). -/

namespace Sys2Proof.Machine

/-! ### One NEXT -/

/-- The output with its factors in the order of R88. -/
theorem output_eq (g : Gen) : output g = rotl64 (g.s0 * mulK) rotR + g.s1 := by
  rw [output, mul_comm]

/-- Settles O13: NEXT's effect, with a value and without one; the corner cases and the example are computed. -/
theorem nextCommand : Obligations.NextCommand := by
  refine ⟨fun x y => decode_0x02 rfl, fun s b hb hinit => ?_, fun s b hb hinit => ?_, by decide⟩
  · rw [exec_of_block _ hb, Block.effect, Block.reading_init _ _ hinit, output_eq]
    rfl
  · rw [exec_of_block _ hb, Block.effect, Block.reading_not_init _ _ hinit]
    rfl

/-! ### The same requests to two instances -/

/-- Settles O15: equal `init`, and equal pairs where `init` is 1, is equal value, and instances of equal value answer
alike. -/
theorem sameStateSameResponses : Obligations.SameStateSameResponses := by
  intro reqs s s' k k' b b' hi hi' hb hb' hinit hgen
  obtain ⟨t, hrun, hblock, -⟩ := run_commands_block reqs [] s k b (by simpa using hi) hb
  obtain ⟨t', hrun', hblock', -⟩ := run_commands_block reqs [] s' k' b' (by simpa using hi') hb'
  obtain ⟨rs, hlen, hresponses, hresponses', hvalue⟩ :=
    Block.takeAll_alike reqs (Block.value_eq_iff.mpr ⟨hinit, hgen⟩)
  exact ⟨t, t', _, _, rs, hrun, hrun', hblock, hblock', hlen, hresponses, hresponses', Block.value_eq_iff.mp hvalue⟩

/-! ### Powers of T -/

theorem transitionPow_eq_iterate (n : Nat) : transitionPow n = transition^[n] := by
  funext g
  induction n with
  | zero => rfl
  | succ n ih => rw [transitionPow_succ, ih, Function.iterate_succ_apply']

theorem transitionPow_injective (n : Nat) : Function.Injective (transitionPow n) :=
  transitionPow_eq_iterate n ▸ transitionIsBijective.1.injective.iterate n

theorem transitionPow_eq_zero_iff (n : Nat) {g : Gen} : transitionPow n g = Gen.zero ↔ g = Gen.zero :=
  (transitionPow_injective n).eq_iff' (transitionPow_of_zero n)

/-- Settles O17: NEXT requests iterate T, and no power of T takes another state to (0, 0). -/
theorem nextsNeverReachZero : Obligations.NextsNeverReachZero := by
  intro reqs s k b hr hi hk hb hg
  obtain ⟨t, c, hrun, hblock, -, hgen, -⟩ := nextsIterateTransition reqs s k b hr hi hk hb
  exact ⟨t, c, hrun, hblock, hgen ▸ (transitionPow_eq_zero_iff _).not.mpr hg⟩

end Sys2Proof.Machine
end

section
/-! PROOFS. Polynomials over GF(2) as numbers, bit `j` the coefficient of x^j: their sums, products and powers modulo the
characteristic polynomial P of T, and the maps of states that T makes of them (R91, R127). -/

namespace Sys2Proof.Machine

/-! ### A polynomial of T -/

/-- p(T)(g): the XOR of the T^j(g) over the set bits j of `p`, which may have any degree. -/
def polyEval (p : Nat) (g : Gen) : Gen := Gen.sum (p.bitIndices.map fun j => transitionPow j g)

@[simp] theorem polyEval_zero (g : Gen) : polyEval 0 g = Gen.zero := by simp [polyEval]

@[simp] theorem polyEval_one (g : Gen) : polyEval 1 g = g := by simp [polyEval]

theorem polyEval_two_mul (p : Nat) (g : Gen) : polyEval (2 * p) g = transition (polyEval p g) := by
  simp [polyEval, transition_sum_map, Function.comp_def, transitionPow_succ]

theorem polyEval_two_mul_add_one (p : Nat) (g : Gen) :
    polyEval (2 * p + 1) g = Gen.xor g (transition (polyEval p g)) := by
  simp [polyEval, transition_sum_map, Function.comp_def, transitionPow_succ]

theorem polyEval_bit (b : Bool) (p : Nat) (g : Gen) :
    polyEval (Nat.bit b p) g = Gen.xor (bif b then g else Gen.zero) (transition (polyEval p g)) := by
  cases b with
  | false => simp [polyEval_two_mul]
  | true => simp [polyEval_two_mul_add_one]

/-- The XOR of two numbers is the sum of the polynomials. -/
theorem polyEval_xor (p q : Nat) (g : Gen) : polyEval (p ^^^ q) g = Gen.xor (polyEval p g) (polyEval q g) := by
  induction p using Nat.binaryRec generalizing q with
  | zero => simp
  | bit a p ih =>
    induction q using Nat.bitCasesOn with
    | bit b q =>
      have hbits : (bif bne a b then g else Gen.zero) =
          Gen.xor (bif a then g else Gen.zero) (bif b then g else Gen.zero) := by cases a <;> cases b <;> simp
      rw [Nat.xor_bit, polyEval_bit, polyEval_bit, polyEval_bit, ih, transition_xor, hbits, Gen.xor_xor_xor_comm]

theorem polyEval_of_xor (p : Nat) (a b : Gen) : polyEval p (Gen.xor a b) = Gen.xor (polyEval p a) (polyEval p b) := by
  simp only [polyEval, transitionPow_xor, Gen.sum_map_xor]

theorem polyEval_transition (p : Nat) (g : Gen) : polyEval p (transition g) = transition (polyEval p g) := by
  simp only [polyEval, transitionPow_transition, transition_sum_map]

theorem polyEval_of_zero (p : Nat) : polyEval p Gen.zero = Gen.zero := by
  simpa using polyEval_of_xor p Gen.zero Gen.zero

/-! ### Recursion over the bits of a number -/

/-- A value built from the lowest `k` bits of a number, the highest of them first. -/
def foldLowBits {α : Type} (f : Nat → α → α) (z : α) : Nat → Nat → α
  | 0, _ => z
  | k + 1, n => f (n % 2) (foldLowBits f z k (n / 2))

/-- A value built from all the bits of a number, the highest first. -/
def foldBits {α : Type} (f : Nat → α → α) (z : α) (n : Nat) : α := foldLowBits f z (n.log2 + 1) n

section
variable {α : Type} {f : Nat → α → α} {z : α} (P : Nat → α → Prop) (zero : P 0 z)
  (even : ∀ n a, P n a → P (2 * n) (f 0 a)) (odd : ∀ n a, P n a → P (2 * n + 1) (f 1 a))
include zero even odd

theorem foldLowBits_induction : ∀ k n, n < 2 ^ k → P n (foldLowBits f z k n)
  | 0, n, h => by
    obtain rfl : n = 0 := by simpa using h
    exact zero
  | k + 1, n, h => by
    have ih := foldLowBits_induction k (n / 2) (by rw [pow_succ] at h; omega)
    obtain hbit | hbit := Nat.mod_two_eq_zero_or_one n
    · have heven := even _ _ ih
      rwa [show 2 * (n / 2) = n by omega, ← hbit] at heven
    · have hodd := odd _ _ ih
      rwa [show 2 * (n / 2) + 1 = n by omega, ← hbit] at hodd

/-- What holds of `z` for 0, and is passed on from a number to the two that have one bit more, holds of the value built
from any number. -/
theorem foldBits_induction (n : Nat) : P n (foldBits f z n) :=
  foldLowBits_induction P zero even odd _ n Nat.lt_log2_self

end

/-! ### The characteristic polynomial -/

/-- Horner's rule for p(T)(g). -/
def polyHorner (g : Gen) (p : Nat) : Gen :=
  foldBits (fun d h => Gen.xor (if d = 1 then g else Gen.zero) (transition h)) Gen.zero p

theorem polyHorner_eq (g : Gen) (p : Nat) : polyHorner g p = polyEval p g :=
  foldBits_induction (fun n h => h = polyEval n g) (polyEval_zero g).symm
    (fun n _ ih => by simp [ih, polyEval_two_mul]) (fun n _ ih => by simp [ih, polyEval_two_mul_add_one]) p

/-- P with all its coefficients, x^128 among them (R91). -/
def charPoly : Nat := 0x16DB6DD73C9308D04C9308D05A4865071

theorem charPoly_eq : charPoly = 2 ^ 128 + charPolyLow.toNat := by decide

/-- P(T) = 0 (R91). -/
theorem polyEval_charPoly : ∀ g : Gen, polyEval charPoly g = Gen.zero :=
  transition_induction _
    (by rw [← polyHorner_eq]; decide +kernel)
    (by rw [← polyHorner_eq]; decide +kernel)
    (fun g hg => by rw [polyEval_transition, hg, transition_zero])
    (fun a b ha hb => by rw [polyEval_of_xor, ha, hb, Gen.xor_zero])

/-! ### Products and powers modulo P -/

/-- x times a polynomial of degree below 128, modulo P. It is written with `Nat`'s own functions, which the kernel
computes on numerals at once; `polyMulX_eq` gives the usual form. -/
def polyMulX (p : Nat) : Nat := Nat.xor (Nat.mul 2 p) (Nat.mul (Nat.mod (Nat.shiftRight p 127) 2) charPoly)

theorem polyMulX_eq (p : Nat) : polyMulX p = (2 * p) ^^^ (p >>> 127 % 2 * charPoly) := rfl

theorem polyEval_polyMulX (p : Nat) (g : Gen) : polyEval (polyMulX p) g = transition (polyEval p g) := by
  rw [polyMulX_eq, polyEval_xor, polyEval_two_mul]
  obtain hbit | hbit := Nat.mod_two_eq_zero_or_one (p >>> 127)
  · simp [hbit]
  · simp [hbit, polyEval_charPoly]

/-- One bit `d` more of the first factor, for the product `r` of the bits above it with `q`; written as `polyMulX` is. -/
def polyMulBit (q d r : Nat) : Nat := Nat.xor (polyMulX r) (Nat.mul d q)

theorem polyEval_polyMulBit (q d r : Nat) (g : Gen) :
    polyEval (polyMulBit q d r) g = Gen.xor (transition (polyEval r g)) (polyEval (d * q) g) :=
  (polyEval_xor (polyMulX r) (d * q) g).trans (by rw [polyEval_polyMulX])

/-- The product of two polynomials modulo P. -/
def polyMul (p q : Nat) : Nat := foldBits (polyMulBit q) 0 p

theorem polyEval_polyMul (p q : Nat) (g : Gen) : polyEval (polyMul p q) g = polyEval p (polyEval q g) :=
  foldBits_induction (fun n r => polyEval r g = polyEval n (polyEval q g)) (by simp)
    (fun n r ih => by simp [polyEval_polyMulBit, ih, polyEval_two_mul])
    (fun n r ih => by simp [polyEval_polyMulBit, ih, polyEval_two_mul_add_one, Gen.xor_comm]) p

/-- The power x^e modulo P. -/
def xPow (e : Nat) : Nat := foldBits (fun d r => if d = 1 then polyMulX (polyMul r r) else polyMul r r) 1 e

/-- Each bit of the exponent squares the power, and a 1 multiplies it by x. -/
theorem polyEval_xPow (e : Nat) (g : Gen) : polyEval (xPow e) g = transitionPow e g := by
  have hsquare (n r : Nat) (ih : ∀ g, polyEval r g = transitionPow n g) (g : Gen) :
      polyEval (polyMul r r) g = transitionPow (2 * n) g := by
    rw [polyEval_polyMul, ih, ih, two_mul, transitionPow_add]
  refine foldBits_induction (fun n r => ∀ g, polyEval r g = transitionPow n g) (by simp)
    (fun n r ih g => ?_) (fun n r ih g => ?_) e g
  · rw [if_neg zero_ne_one, hsquare n r ih]
  · rw [if_pos rfl, polyEval_polyMulX, hsquare n r ih, transitionPow_succ]

end Sys2Proof.Machine
end

section
/-! PROOFS. From every state other than (0, 0) the powers of T have period 2^128 - 1 (R119): x has that order modulo P,
and for each prime factor q of it, x^((2^128 - 1) / q) - 1 is invertible modulo P. -/

namespace Sys2Proof.Machine

/-! ### The prime factors of the period -/

/-- Each prime factor q of 2^128 - 1, with the inverse of x^((2^128 - 1) / q) - 1 modulo P. -/
def periodFactors : List (Nat × Nat) :=
  [(3, 0x134B26EF4A5BFF9327F8378CFDBBA3B6), (5, 0x07620ED7702BE7016264BB6853D1511A),
    (17, 0x071C64F864ED1B41659719B5660B7246), (257, 0x6AABB8E6D24A7983D4460D14CD66C840),
    (65537, 0x00786B33018BAA6C797D5D8CF6125C05), (641, 0x79E08D28E6EC48E98A208250396BA956),
    (6700417, 0x122324404EF99A8E5BD4A58770F4DF6C), (274177, 0x00147ED579B6643B6BF941B425B5DF75),
    (67280421310721, 0x78E28831F0C6013BF7DC0F1CEDC62E27)]

theorem periodFactors_prod : (periodFactors.map Prod.fst).prod = 2 ^ 128 - 1 := by decide

/-- A numeral from 2 on and below the modulus is not 1. -/
theorem zmod_ofNat_ne_one {m n : Nat} [n.AtLeastTwo] (h : n < m) : (OfNat.ofNat n : ZMod m) ≠ 1 := by
  have hcast : (n : ZMod m) ≠ ((1 : Nat) : ZMod m) := by
    rw [Ne, ZMod.natCast_eq_natCast_iff', Nat.mod_eq_of_lt h, Nat.mod_eq_of_lt (Nat.AtLeastTwo.one_lt.trans h)]
    exact Nat.AtLeastTwo.ne_one
  rwa [Nat.cast_one] at hcast

/-- Lucas' test with the primitive root 3. -/
theorem prime_67280421310721 : Nat.Prime 67280421310721 := by
  refine lucas_primality _ 3 (by reduce_mod_char) fun q hq hdvd => ?_
  have hprimes : ∀ a ∈ [2, 2, 2, 2, 2, 2, 2, 2, 5, 47, 373, 2998279], Prime a := by
    norm_num [← Nat.prime_iff]
  have hmem := mem_list_primes_of_dvd_prod hq.prime hprimes hdvd
  simp only [List.mem_cons, List.not_mem_nil, or_false, or_self_left] at hmem
  rcases hmem with rfl | rfl | rfl | rfl | rfl <;> simp only [Nat.reduceSub, Nat.reduceDiv] <;> reduce_mod_char <;>
    exact zmod_ofNat_ne_one (by norm_num)

theorem periodFactors_prime : ∀ q ∈ periodFactors.map Prod.fst, Prime q := by
  simp only [periodFactors, List.map_cons, List.map_nil, List.forall_mem_cons, ← Nat.prime_iff]
  exact ⟨by norm_num, by norm_num, by norm_num, by norm_num, by norm_num, by norm_num, by norm_num, by norm_num,
    prime_67280421310721, by simp⟩

/-- x to the period is 1 modulo P. -/
theorem xPow_period : xPow (2 ^ 128 - 1) = 1 := by decide +kernel

theorem periodFactors_inverse :
    ∀ c ∈ periodFactors, polyMul c.2 (xPow ((2 ^ 128 - 1) / c.1) ^^^ 1) = 1 := by
  intro c hc
  simp only [periodFactors, List.mem_cons, List.not_mem_nil, or_false] at hc
  rcases hc with rfl | rfl | rfl | rfl | rfl | rfl | rfl | rfl | rfl <;> decide +kernel

theorem exists_inverse_of_prime {q : Nat} (hq : q.Prime) (hdvd : q ∣ 2 ^ 128 - 1) :
    ∃ u, polyMul u (xPow ((2 ^ 128 - 1) / q) ^^^ 1) = 1 := by
  have hmem := mem_list_primes_of_dvd_prod hq.prime periodFactors_prime (periodFactors_prod ▸ hdvd)
  obtain ⟨c, hc, rfl⟩ := List.mem_map.mp hmem
  exact ⟨c.2, periodFactors_inverse c hc⟩

/-! ### The period of a state -/

theorem transitionPow_period (g : Gen) : transitionPow (2 ^ 128 - 1) g = g := by
  rw [← polyEval_xPow, xPow_period, polyEval_one]

/-- Where x^e - 1 is invertible, T^e fixes (0, 0) only. -/
theorem eq_zero_of_transitionPow_eq_self {e u : Nat} (h : polyMul u (xPow e ^^^ 1) = 1) {g : Gen}
    (hg : transitionPow e g = g) : g = Gen.zero := by
  have hzero : polyEval (xPow e ^^^ 1) g = Gen.zero := by
    rw [polyEval_xor, polyEval_xPow, polyEval_one, hg, Gen.xor_self]
  rw [← polyEval_one g, ← h, polyEval_polyMul, hzero, polyEval_of_zero]

/-- A smaller period would divide 2^128 - 1 with a quotient that has a prime factor q, and (2^128 - 1) / q would be a
period too. -/
theorem minimalPeriod_transition {g : Gen} (hg : g ≠ Gen.zero) :
    Function.minimalPeriod transition g = 2 ^ 128 - 1 := by
  have hperiod : Function.IsPeriodicPt transition (2 ^ 128 - 1) g := by
    rw [Function.IsPeriodicPt, Function.IsFixedPt, ← transitionPow_eq_iterate, transitionPow_period]
  obtain ⟨k, hk⟩ := hperiod.minimalPeriod_dvd
  by_contra hne
  obtain ⟨q, hq, m, rfl⟩ := Nat.exists_prime_and_dvd (n := k) (by rintro rfl; exact hne (by rw [hk, mul_one]))
  obtain ⟨u, hu⟩ := exists_inverse_of_prime hq ⟨Function.minimalPeriod transition g * m, by rw [hk]; ring⟩
  have hdiv : (2 ^ 128 - 1) / q = Function.minimalPeriod transition g * m :=
    Nat.div_eq_of_eq_mul_right hq.pos (by rw [hk]; ring)
  refine hg (eq_zero_of_transitionPow_eq_self hu ?_)
  rw [hdiv, transitionPow_eq_iterate]
  exact (Function.isPeriodicPt_minimalPeriod transition g).mul_const m

theorem transitionPow_eq_transitionPow_iff {g : Gen} (hg : g ≠ Gen.zero) (i j : Nat) :
    transitionPow i g = transitionPow j g ↔ i ≡ j [MOD 2 ^ 128 - 1] := by
  have hmod (n : Nat) : transitionPow n g = transition^[n % (2 ^ 128 - 1)] g := by
    rw [transitionPow_eq_iterate, ← minimalPeriod_transition hg, Function.iterate_mod_minimalPeriod_eq]
  have hlt (n : Nat) : n % (2 ^ 128 - 1) < Function.minimalPeriod transition g :=
    (Nat.mod_lt n (by norm_num)).trans_eq (minimalPeriod_transition hg).symm
  rw [hmod, hmod, Function.iterate_eq_iterate_iff_of_lt_minimalPeriod (hlt i) (hlt j), Nat.ModEq]

/-- Settles O18: NEXT requests iterate T, whose powers have that period on every state other than (0, 0). -/
theorem statesRepeatWithFullPeriod : Obligations.StatesRepeatWithFullPeriod := by
  refine ⟨fun g i j hg => transitionPow_eq_transitionPow_iff hg i j, fun reqs s k b hr hi hk hb hg => ?_⟩
  obtain ⟨t, c, hrun, hblock, -, hgen, -⟩ := nextsIterateTransition reqs s k b hr hi hk hb
  refine ⟨t, c, hrun, hblock, ?_⟩
  have hstart := transitionPow_eq_transitionPow_iff hg reqs.length 0
  rwa [transitionPow_zero, Nat.modEq_zero_iff_dvd, ← hgen] at hstart

end Sys2Proof.Machine
end

section
/-! PROOFS. The jump engine evaluates its polynomial at T (R127), and x^J mod P makes it jump J steps (R130). -/

namespace Sys2Proof.Machine

/-! ### The engine's result is a polynomial of T -/

/-- The engine computes p(T)(S) (R127). -/
theorem jumpPoly_eq_polyAtT (g : Gen) (w0 w1 : Word) : jumpPoly g w0 w1 = polyAtT (polyOf w0 w1) g := by
  have hlow : (List.range 64).filter (fun j => (polyOf w0 w1).getLsbD j) =
      (List.range 64).filter (fun j => w0.getLsbD j) :=
    List.filter_congr fun j hj => by rw [polyOf_getLsbD_low w0 w1 (List.mem_range.mp hj)]
  have hrange : List.range 128 = List.range 64 ++ (List.range 64).map (64 + ·) := List.range_add (n := 64) (m := 64)
  rw [jumpPoly_eq, polyAtT, polyPowers, hrange, List.filter_append, List.map_append, Gen.sum_append, hlow,
    List.filter_map, List.map_map]
  simp only [Function.comp_def, polyOf_getLsbD_high, ← transitionPow_add, Nat.add_comm _ 64]

/-- Settles O25: the loop's running state after each bit, and the engine's closed form over the bits of both words. -/
theorem engineEvaluatesPolynomialAtT : Obligations.EngineEvaluatesPolynomialAtT := by
  refine ⟨fun g w0 w1 b _ => ⟨?_, ?_⟩, jumpPoly_eq_polyAtT⟩
  · rw [engine_loop]
  · rw [engine_loop, engineWord_eq, ← transitionPow_add, Nat.add_comm]

/-! ### The engine's polynomial as a number -/

theorem bitIndices_eq_filter_range {n k : Nat} (h : n < 2 ^ k) :
    n.bitIndices = (List.range k).filter fun j => n.testBit j := by
  have hlt {j : Nat} (hj : n.testBit j = true) : j < k :=
    (Nat.pow_lt_pow_iff_right one_lt_two).mp ((Nat.ge_two_pow_of_testBit hj).trans_lt h)
  have hsorted : ((List.range k).filter fun j => n.testBit j).SortedLT :=
    (List.pairwise_lt_range.filter _).sortedLT
  exact Nat.bitIndices_sorted.eq_of_mem_iff hsorted fun j => by simpa using hlt

theorem polyAtT_eq_polyEval (p : BitVec 128) (g : Gen) : polyAtT p g = polyEval p.toNat g := by
  rw [polyEval, bitIndices_eq_filter_range p.isLt]
  rfl

theorem jumpPoly_eq_polyEval (g : Gen) (w0 w1 : Word) : jumpPoly g w0 w1 = polyEval (polyOf w0 w1).toNat g := by
  rw [jumpPoly_eq_polyAtT, polyAtT_eq_polyEval]

theorem jumpPoly_three (g : Gen) : jumpPoly g 3 0 = Gen.xor g (transition g) := by
  have hbits : (polyOf 3 0).toNat = 2 * 1 + 1 := by decide
  rw [jumpPoly_eq_polyEval, hbits, polyEval_two_mul_add_one, polyEval_one]

/-- Settles O26: what the five polynomials are of T, and that the engine is linear. -/
theorem engineCornerCases : Obligations.EngineCornerCases := by
  refine fun g => ⟨?_, ?_, ?_, jumpPoly_three g, ?_, jumpPoly_zero⟩ <;> rw [jumpPoly_eq_polyEval]
  · exact polyEval_zero g
  · exact polyEval_one g
  · have hbits : (polyOf 2 0).toNat = 2 * 1 := by decide
    rw [hbits, polyEval_two_mul, polyEval_one]
  · have hbits : (polyOf 0 0x8000000000000000).toNat = 2 ^ 127 := by decide
    rw [hbits, polyEval, Nat.bitIndices_two_pow, List.map_singleton, Gen.sum_cons, Gen.sum_nil, Gen.xor_zero]

/-! ### Powers of x -/

/-- Where two numbers agree above their lowest `k` bits, XOR leaves nothing there. -/
theorem xor_eq_xor_mod_of_div_eq {a b k : Nat} (h : a / 2 ^ k = b / 2 ^ k) :
    a ^^^ b = (a % 2 ^ k) ^^^ (b % 2 ^ k) := by
  have hdiv : (a ^^^ b) / 2 ^ k = 0 := by rw [Nat.xor_div_two_pow, h, Nat.xor_self]
  rw [← Nat.xor_mod_two_pow, Nat.mod_eq_of_lt (Nat.lt_of_div_eq_zero (Nat.two_pow_pos k) hdiv)]

theorem charPoly_div_mod : charPoly / 2 ^ 128 = 1 ∧ charPoly % 2 ^ 128 = charPolyLow.toNat := by decide

/-- Where 2p reaches 2^128, it and P agree in that one bit, and XOR with P takes it away. -/
theorem mulXModP_toNat (p : BitVec 128) : (mulXModP p).toNat = polyMulX p.toNat := by
  have hlt := p.isLt
  rw [mulXModP, polyMulX_eq, Nat.shiftRight_eq_div_pow, BitVec.toNat_xor, BitVec.toNat_shiftLeft, Nat.shiftLeft_eq,
    pow_one, mul_comm p.toNat]
  cases hmsb : p.msb with
  | true =>
    have hge := BitVec.msb_eq_true_iff_two_mul_ge.mp hmsb
    have hbit : p.toNat / 2 ^ 127 % 2 = 1 := by omega
    obtain ⟨hdiv, hmod⟩ := charPoly_div_mod
    rw [hbit, one_mul, if_pos rfl, ← hmod, xor_eq_xor_mod_of_div_eq (b := charPoly) (k := 128) (by omega)]
  | false =>
    have hlow := BitVec.msb_eq_false_iff_two_mul_lt.mp hmsb
    have hbit : p.toNat / 2 ^ 127 % 2 = 0 := by omega
    rw [hbit, Nat.mod_eq_of_lt hlow, if_neg Bool.false_ne_true]
    simp

theorem polyAtT_mulXModP (p : BitVec 128) (g : Gen) : polyAtT (mulXModP p) g = transition (polyAtT p g) := by
  rw [polyAtT_eq_polyEval, mulXModP_toNat, polyEval_polyMulX, polyAtT_eq_polyEval]

theorem polyAtT_one (g : Gen) : polyAtT 1 g = g := (polyAtT_eq_polyEval 1 g).trans (polyEval_one g)

theorem polyAtT_xPowModP (J : Nat) (g : Gen) : polyAtT (xPowModP J) g = transitionPow J g := by
  induction J with
  | zero => exact polyAtT_one g
  | succ J ih => rw [xPowModP, polyAtT_mulXModP, ih, transitionPow_succ]

theorem jumpPoly_xPowModP (J : Nat) (g : Gen) :
    jumpPoly g (polyW0 (xPowModP J)) (polyW1 (xPowModP J)) = transitionPow J g := by
  rw [jumpPoly_eq_polyAtT, polyOf_words, polyAtT_xPowModP]

/-! ### A polynomial of degree below 128 is known by what it makes of (0, 1) -/

theorem polyAtT_xor (p q : BitVec 128) (g : Gen) : polyAtT (p ^^^ q) g = Gen.xor (polyAtT p g) (polyAtT q g) := by
  simp only [polyAtT_eq_polyEval, BitVec.toNat_xor, polyEval_xor]

/-- The polynomials of T make every state of (0, 1): `x^64 + x^32` makes (0, 2). -/
theorem exists_polyAtT_eq : ∀ g : Gen, ∃ p : BitVec 128, polyAtT p ⟨0, 1⟩ = g := by
  refine transition_induction _ ⟨1, by decide⟩ ⟨0x10000000100000000, by decide⟩ ?_ ?_
  · rintro g ⟨p, rfl⟩
    exact ⟨mulXModP p, polyAtT_mulXModP p _⟩
  · rintro a b ⟨p, rfl⟩ ⟨q, rfl⟩
    exact ⟨p ^^^ q, polyAtT_xor p q _⟩

theorem toVec_surjective : Function.Surjective Gen.toVec := fun v => ⟨⟨polyW0 v, polyW1 v⟩, polyOf_words v⟩

/-- There are as many such polynomials as states. -/
theorem polyAtT_injective : Function.Injective (polyAtT · ⟨0, 1⟩) := by
  have hinjective : Function.Injective (Gen.toVec ∘ (polyAtT · ⟨0, 1⟩)) :=
    Finite.injective_iff_surjective.mpr (toVec_surjective.comp exists_polyAtT_eq)
  exact hinjective.of_comp

/-- The power found by squaring is the one found step by step. -/
theorem xPowModP_eq_of_xPow {J : Nat} {p : BitVec 128} (h : xPow J = p.toNat) : xPowModP J = p :=
  polyAtT_injective <| by
    simp only [polyAtT_xPowModP]
    rw [polyAtT_eq_polyEval, ← h, polyEval_xPow]

theorem xPowModP_jump32 : xPowModP (2 ^ 32) = polyOf j32W0 j32W1 := xPowModP_eq_of_xPow (by decide +kernel)

theorem xPowModP_jump64 : xPowModP (2 ^ 64) = polyOf j64W0 j64W1 := xPowModP_eq_of_xPow (by decide +kernel)

theorem xPowModP_jump96 : xPowModP (2 ^ 96) = polyOf j96W0 j96W1 := xPowModP_eq_of_xPow (by decide +kernel)

/-- Settles O27: x^J mod P is the polynomial of T^J, and three such powers are computed by squaring. -/
theorem engineJumpsByPowersOfX : Obligations.EngineJumpsByPowersOfX :=
  ⟨jumpPoly_xPowModP, fun _ h => h ▸ xPowModP_jump32, fun _ h => h ▸ xPowModP_jump64,
    fun _ h => h ▸ xPowModP_jump96⟩

end Sys2Proof.Machine
end

section
/-! PROOFS. The three jumps: whole effect of each command, and that it is a power of T (R131 to R137). -/

namespace Sys2Proof.Machine

/-! ### The jump maps are powers of T -/

theorem jumpPoly_of_xPowModP {J : Nat} {w0 w1 : Word} (h : xPowModP J = polyOf w0 w1) (g : Gen) :
    jumpPoly g w0 w1 = transitionPow J g := by
  rw [jumpPoly_eq_polyAtT, ← h, polyAtT_xPowModP]

theorem jump32_eq_transitionPow (g : Gen) : jumpPoly g j32W0 j32W1 = transitionPow (2 ^ 32) g :=
  jumpPoly_of_xPowModP xPowModP_jump32 g

theorem jump96_eq_transitionPow (g : Gen) : jumpPoly g j96W0 j96W1 = transitionPow (2 ^ 96) g :=
  jumpPoly_of_xPowModP xPowModP_jump96 g

/-- The old s1 stands in both terms of S ^ T(S) and cancels (R133). -/
theorem jumpClosed64_eq_xor_transition (g : Gen) : jumpClosed64 g = Gen.xor g (transition g) := by
  ext1
  · rfl
  · rw [Gen.xor_s1, transition_s1, BitVec.xor_comm, BitVec.xor_assoc, BitVec.xor_self, BitVec.xor_zero]
    rfl

theorem jumpClosed64_eq_jumpPoly (g : Gen) : jumpClosed64 g = jumpPoly g 3 0 := by
  rw [jumpClosed64_eq_xor_transition, jumpPoly_three]

theorem jumpClosed64_eq_transitionPow (g : Gen) : jumpClosed64 g = transitionPow (2 ^ 64) g :=
  (jumpClosed64_eq_jumpPoly g).trans (jumpPoly_of_xPowModP xPowModP_jump64 g)

/-! ### The commands -/

section
variable {s : State} {b : Block} (hb : s.blocks[s.port]? = some b)
include hb

/-- A command that reads the state, on an instance that holds none (R153). -/
theorem exec_uninitialised {i : Instr} (hinit : b.init = false) (hs : ∀ v, i ≠ .seed v)
    (hl : ∀ x y, i ≠ .load x y) : exec i s =
    .next { s with blocks := s.blocks.set s.port (b.raiseFault .uninitialised (cmdOf i)) } := by
  rw [exec_of_block _ hb, Block.effect_uninitialised hinit hs hl]

theorem exec_jump32_init (hinit : b.init = true) : exec .jump32 s =
    .next { s with blocks := s.blocks.set s.port ((b.write (jumpPoly b.gen j32W0 j32W1)).respond Response.done) } := by
  rw [exec_of_block _ hb, Block.effect, Block.reading_init _ _ hinit]

theorem exec_jump64_init (hinit : b.init = true) : exec .jump64 s =
    .next { s with blocks := s.blocks.set s.port ((b.write (jumpClosed64 b.gen)).respond Response.done) } := by
  rw [exec_of_block _ hb, Block.effect, Block.reading_init _ _ hinit]

theorem exec_jump96_init (hinit : b.init = true) : exec .jump96 s =
    .next { s with blocks := s.blocks.set s.port ((b.write (jumpPoly b.gen j96W0 j96W1)).respond Response.done) } := by
  rw [exec_of_block _ hb, Block.effect, Block.reading_init _ _ hinit]

end

/-- Settles O28: JUMP32's effect, with a value and without one; the corner cases and the example are computed. -/
theorem jump32Command : Obligations.Jump32Command := by
  refine ⟨fun _ _ => decode_0x03 rfl, fun _ _ hb hinit => ?_,
    fun _ _ hb hinit => exec_uninitialised hb hinit (by simp) (by simp), ?_, ?_, jump32_of_one, ?_⟩
  · rw [exec_jump32_init hb hinit]
    rfl
  · exact jumpPoly_zero _ _
  · decide
  · decide

/-- Settles O29: JUMP96's effect, with a value and without one; the corner cases and the example are computed. -/
theorem jump96Command : Obligations.Jump96Command := by
  refine ⟨fun _ _ => decode_0x05 rfl, fun _ _ hb hinit => ?_,
    fun _ _ hb hinit => exec_uninitialised hb hinit (by simp) (by simp), ?_, ?_, jump96_of_one, ?_⟩
  · rw [exec_jump96_init hb hinit]
    rfl
  · exact jumpPoly_zero _ _
  · decide
  · decide

/-- Settles O30: JUMP64's effect, with a value and without one; its closed form is the polynomial 1 + x of T. -/
theorem jump64Command : Obligations.Jump64Command :=
  ⟨fun _ _ => decode_0x04 rfl, fun _ _ hb hinit => exec_jump64_init hb hinit,
    fun _ _ hb hinit => exec_uninitialised hb hinit (by simp) (by simp),
    fun g => ⟨jumpClosed64_eq_jumpPoly g, jumpClosed64_eq_xor_transition g⟩, by decide⟩

/-- Settles O31: each command writes its jump map's value, a power of T, and NEXT requests iterate T. -/
theorem jumpEqualsManyNexts : Obligations.JumpEqualsManyNexts := by
  refine ⟨fun J s b hJ hb hinit => ?_, fun J s b hJ hb hinit => ?_, fun J s b hJ hb hinit => ?_,
    fun reqs s k b hr hi hk hb => ?_, jumpClosed64_eq_jumpPoly⟩
  · rw [exec_jump32_init hb hinit, jump32_eq_transitionPow, ← hJ]
    rfl
  · rw [exec_jump64_init hb hinit, jumpClosed64_eq_transitionPow, ← hJ]
    rfl
  · rw [exec_jump96_init hb hinit, jump96_eq_transitionPow, ← hJ]
    rfl
  · obtain ⟨t, c, hrun, hblock, -, hgen, -⟩ := nextsIterateTransition reqs s k b hr hi hk hb
    exact ⟨t, c, hrun, hblock, hgen⟩

/-! ### Properties -/

theorem exists_transitionPow_of_mem_jumps :
    ∀ f ∈ [fun g => jumpPoly g j32W0 j32W1, jumpClosed64, fun g => jumpPoly g j96W0 j96W1],
      ∃ n, f = transitionPow n := by
  simp only [List.forall_mem_cons]
  exact ⟨⟨2 ^ 32, funext jump32_eq_transitionPow⟩, ⟨2 ^ 64, funext jumpClosed64_eq_transitionPow⟩,
    ⟨2 ^ 96, funext jump96_eq_transitionPow⟩, by simp⟩

theorem transitionPow_comm (m n : Nat) (g : Gen) :
    transitionPow m (transitionPow n g) = transitionPow n (transitionPow m g) := by
  rw [← transitionPow_add, ← transitionPow_add, Nat.add_comm]

/-- Settles O32: powers of T commute; the example is computed. -/
theorem jumpsCommute : Obligations.JumpsCommute := by
  refine ⟨fun f hf => ?_, by decide⟩
  obtain ⟨m, rfl⟩ := exists_transitionPow_of_mem_jumps f hf
  refine ⟨fun h hh => ?_, transitionPow_transition m⟩
  obtain ⟨n, rfl⟩ := exists_transitionPow_of_mem_jumps h hh
  exact transitionPow_comm m n

theorem polyOf_jump96 : polyOf j96W0 j96W1 = polyOf j32W0 j32W1 ^^^ 1 := by decide

theorem jump96_eq_xor (g : Gen) : jumpPoly g j96W0 j96W1 = Gen.xor (jumpPoly g j32W0 j32W1) g := by
  rw [jumpPoly_eq_polyAtT, polyOf_jump96, polyAtT_xor, polyAtT_one, ← jumpPoly_eq_polyAtT]

/-- Settles O33: the polynomial 1, by which the two differ, is the identity. -/
theorem jump96IsJump32XorState : Obligations.Jump96IsJump32XorState := by
  refine ⟨polyOf_jump96, jump96_eq_xor, fun J K g hJ hK => ?_⟩
  rw [hJ, hK, ← jump96_eq_transitionPow, ← jump32_eq_transitionPow, jump96_eq_xor]

/-- Settles O34: each jump map is injective and fixes (0, 0). -/
theorem jumpsNeverReachZero : Obligations.JumpsNeverReachZero := fun _ =>
  ⟨jump32_eq_zero_iff, jumpClosed64_eq_zero_iff, jump96_eq_zero_iff⟩

end Sys2Proof.Machine
end

section
/-! PROOFS. The statements about exceptions: which requests fault and how (R152 to R155), what is no fault (R158), and
the command that a reset cuts off (R166, R176). -/

namespace Sys2Proof.Machine

/-! ### When a request completes -/

/-- On an instance that holds a value every command completes. -/
theorem Block.effect_completed {b : Block} (hb : b.init = true) (i : Instr) : b.Completed (b.effect i) := by
  cases i with
  | seed v => exact b.assign_respond_done_completed _
  | load x y => exact b.assign_respond_done_completed _
  | next =>
    rw [Block.effect, Block.reading_init _ _ hb]
    exact Block.write_respond_completed hb _ rfl
  | jump32 =>
    rw [Block.effect, Block.reading_init _ _ hb]
    exact Block.write_respond_completed hb _ rfl
  | jump64 =>
    rw [Block.effect, Block.reading_init _ _ hb]
    exact Block.write_respond_completed hb _ rfl
  | jump96 =>
    rw [Block.effect, Block.reading_init _ _ hb]
    exact Block.write_respond_completed hb _ rfl
  | read =>
    rw [Block.effect, Block.reading_init _ _ hb]
    exact Block.write_respond_completed hb b.gen rfl

/-- A legal request completes when the instance holds a value, and SEED and LOAD complete when it holds none. -/
theorem Block.take_completed {r : Request} {b : Block} (hl : decode r ≠ .illegal)
    (h : ¬ (b.init = false ∧ r.cmd ≠ 0x01 ∧ r.cmd ≠ 0x06)) : b.Completed (b.take r) := by
  by_cases h1 : r.cmd = 0x01
  · exact Block.take_seed h1 ▸ b.assign_respond_done_completed _
  by_cases h6 : r.cmd = 0x06
  · exact Block.take_load h6 ▸ b.assign_respond_done_completed _
  have hb : b.init = true := eq_true_of_ne_false fun hb => h ⟨hb, h1, h6⟩
  cases hd : decode r with
  | illegal => exact absurd hd hl
  | op i => exact Block.take_of_op hd ▸ Block.effect_completed hb i

/-! ### The fault of a request -/

/-- The faults a request leaves: the two checks in the order of R154. -/
theorem Block.take_faults_eq (r : Request) (b : Block) :
    (b.take r).faults = b.faults ++
      (if decode r = .illegal then [⟨.illegalCommand, r.cmd⟩]
       else if b.init = false ∧ r.cmd ≠ 0x01 ∧ r.cmd ≠ 0x06 then [⟨.uninitialised, r.cmd⟩]
       else []) := by
  split_ifs with hd hu
  · rw [Block.take_of_illegal hd, Block.raiseFault_faults]
  · obtain ⟨hb, h1, h6⟩ := hu
    rw [Block.take_uninitialised hd h1 h6 hb, Block.raiseFault_faults]
  · rw [(Block.take_completed hd hu).faults, List.append_nil]

/-- Settles O38: the instance takes the request, whose faults follow the two checks in their order. -/
theorem atMostOneFaultByPriority : Obligations.AtMostOneFaultByPriority := by
  intro s b k r rest hi hb
  refine ⟨_, b.take r, step_command hi hb, List.getElem?_set_self (State.lt_of_block hb), ?_⟩
  simp only [← decode_eq_illegal_iff_toNat, Block.take_faults_eq]

theorem Block.Completed.getLast?_err {b c : Block} (h : b.Completed c) {a : Response}
    (ha : c.responses.getLast? = some a) : a.err = false := by
  obtain ⟨a', herr, hresponses⟩ := h.response
  rw [hresponses, List.getLast?_concat] at ha
  exact Option.some.inj ha ▸ herr

/-- Settles O39: the last response of a completed request has ERR = 0, so this one raised its fault and did no more. -/
theorem faultedCommandWritesNothing : Obligations.FaultedCommandWritesNothing := by
  rintro s t b c k r rest hi hb h hc ⟨a, hlast, herr⟩
  obtain rfl := Host.Outcome.next.inj ((step_command hi hb).symm.trans h)
  obtain rfl : b.take r = c := by simpa [State.lt_of_block hb] using hc
  rcases b.take_completed_or_faulted r with hdone | ⟨kind, -, htake⟩
  · simp [hdone.getLast?_err hlast] at herr
  · rw [htake]
    exact ⟨rfl, rfl, rfl, rfl, rfl, ⟨_, rfl, rfl⟩, rfl⟩

/-- Settles O37: an illegal request raises its fault before any operand and `init` are looked at. -/
theorem illegalRequestsFault : Obligations.IllegalRequestsFault := by
  intro s b k cmd d0 d1 rest hb hcmd hi
  rw [step_command hi hb, Block.take_of_illegal ((decode_eq_illegal_iff _).mpr hcmd)]
  rfl

/-- Settles O36: the five commands find no value and raise the fault; SEED and LOAD do not look for one. -/
theorem readersFaultUninitialised : Obligations.ReadersFaultUninitialised := by
  refine ⟨fun s b i hmem hb hinit => ?_, fun s b v x y hb => ⟨?_, ?_⟩⟩
  · have hs : ∀ v, i ≠ .seed v := by rintro v rfl; simp at hmem
    have hl : ∀ x y, i ≠ .load x y := by rintro x y rfl; simp at hmem
    exact exec_uninitialised hb hinit hs hl
  · exact ⟨_, _, exec_of_block _ hb, List.getElem?_set_self (State.lt_of_block hb), rfl⟩
  · exact ⟨_, _, exec_of_block _ hb, List.getElem?_set_self (State.lt_of_block hb), rfl⟩

/-! ### The degenerate state -/

theorem Block.write_eq_assign {b : Block} (hb : b.init = true) (g : Gen) : b.write g = b.assign g := by
  simp [Block.write, Block.assign, hb]

theorem jumpClosed64_zero : jumpClosed64 Gen.zero = Gen.zero := jumpClosed64_eq_zero_iff.mpr rfl

/-- T and the jump maps fix (0, 0), and its output is 0 (R117, R158). -/
theorem Block.effect_of_zero {i : Instr} {b : Block} (hi : i ∈ [Instr.next, .jump32, .jump64, .jump96])
    (hb : b.init = true) (hg : b.gen = Gen.zero) : b.effect i = (b.assign Gen.zero).respond Response.done := by
  have hcases : i = .next ∨ i = .jump32 ∨ i = .jump64 ∨ i = .jump96 := by simpa using hi
  rcases hcases with rfl | rfl | rfl | rfl <;>
    rw [Block.effect, Block.reading_init _ _ hb, hg, Block.write_eq_assign hb]
  · rw [transition_zero, output_zero, Response.value, Response.done]
  · rw [jumpPoly_zero]
  · rw [jumpClosed64_zero]
  · rw [jumpPoly_zero]

/-- Settles O41: each of these commands assigns (0, 0) and answers without ERR. -/
theorem degenerateStateIsNoFault : Obligations.DegenerateStateIsNoFault := by
  rintro s b i hb (rfl | ⟨hinit, hg, hi⟩)
  · exact exec_of_block _ hb
  · rw [exec_of_block i hb, Block.effect_of_zero hi hinit hg]
    rfl

/-! ### Abandoned commands -/

/-- Settles O46: the three inputs have the same action on the same instance, so delivering them is the same. -/
theorem abandonedCommandHasNoEffect : Obligations.AbandonedCommandHasNoEffect := by
  intro s k r rest
  rw [step_deliver rfl, step_deliver rfl, step_deliver rfl]
  exact ⟨rfl, rfl⟩

end Sys2Proof.Machine
end

section
/-! PROOFS. The statements about reset and hazards: what the requests before the first SEED or LOAD do (R153, R178), and
a READ straight after the pair has changed (R49, R180). -/

namespace Sys2Proof

/-- The fault of a request other than SEED and LOAD on an instance that holds no value: the two checks in the order of
R154. -/
def Request.faultBeforeInit (r : Request) : Machine.FaultRecord :=
  if decode r = .illegal then ⟨.illegalCommand, r.cmd⟩ else ⟨.uninitialised, r.cmd⟩

namespace Machine

/-! ### Before the first SEED or LOAD -/

theorem Block.take_before_init {r : Request} {b : Block} (hr : r.cmd ≠ 0x01 ∧ r.cmd ≠ 0x06) (hb : b.init = false) :
    b.take r = b.raiseFault r.faultBeforeInit.kind r.faultBeforeInit.info := by
  unfold Request.faultBeforeInit
  split_ifs with hd
  · exact Block.take_of_illegal hd
  · exact Block.take_uninitialised hd hr.1 hr.2 hb

/-- Each request is answered by one fault, which leaves `init` at 0 for the next. -/
theorem Block.takeAll_before_init {reqs : List Request} {b : Block} (hr : ∀ r ∈ reqs, r.cmd ≠ 0x01 ∧ r.cmd ≠ 0x06)
    (hb : b.init = false) :
    (b.takeAll reqs).init = false ∧
    (b.takeAll reqs).responses = b.responses ++ List.replicate reqs.length Response.faulted ∧
    (b.takeAll reqs).faults = b.faults ++ reqs.map Request.faultBeforeInit := by
  induction reqs generalizing b with
  | nil => simp [hb]
  | cons r reqs ih =>
    obtain ⟨hfirst, hrest⟩ := List.forall_mem_cons.mp hr
    have hstep := Block.take_before_init hfirst hb
    obtain ⟨hinit, hresponses, hfaults⟩ := ih (b := b.take r) hrest (by rw [hstep, Block.raiseFault_init, hb])
    rw [Block.takeAll_cons]
    refine ⟨hinit, ?_, ?_⟩
    · rw [hresponses, hstep, Block.raiseFault_responses, List.append_assoc]
      rfl
    · rw [hfaults, hstep, Block.raiseFault_faults, List.append_assoc]
      rfl

/-- Settles O42: the run hands an instance in its reset state the requests, and each finds `init` still 0. -/
theorem nothingCompletesBeforeSeedOrLoad : Obligations.NothingCompletesBeforeSeedOrLoad := by
  intro n k reqs hk hr
  obtain ⟨t, hrun, hblock, -⟩ :=
    run_commands_block reqs [] { State.resetOf n with inputs := reqs.map (Input.command k) } k _
      (List.append_nil _).symm (Block.allAtReset_getElem? 0 n k hk)
  obtain ⟨hinit, hresponses, hfaults⟩ := Block.takeAll_before_init hr (Block.atReset_init (0 + k) 0)
  exact ⟨t, _, hrun, hblock, hinit, hresponses, hfaults⟩

/-! ### A READ after a change -/

/-- NEXT and the jumps write a pair and answer; which pair, by CMD byte (R115, R131 to R133). -/
theorem Block.take_nextOrJump {r : Request} {b : Block} (hr : r.cmd ∈ [(0x02 : Cmd), 0x03, 0x04, 0x05])
    (hb : b.init = true) :
    ∃ (a : Response) (g : Gen), b.take r = (b.write g).respond a ∧
      (r.cmd = 0x02 → g = transition b.gen) ∧
      (r.cmd = 0x03 → g = jumpPoly b.gen j32W0 j32W1) ∧
      (r.cmd = 0x04 → g = jumpClosed64 b.gen) ∧
      (r.cmd = 0x05 → g = jumpPoly b.gen j96W0 j96W1) := by
  have hcases : r.cmd = 0x02 ∨ r.cmd = 0x03 ∨ r.cmd = 0x04 ∨ r.cmd = 0x05 := by simpa using hr
  rcases hcases with h | h | h | h
  · exact ⟨_, _, Block.take_next h hb, by simp [h]⟩
  · exact ⟨_, _, Block.take_jump32 h hb, by simp [h]⟩
  · exact ⟨_, _, Block.take_jump64 h hb, by simp [h]⟩
  · exact ⟨_, _, Block.take_jump96 h hb, by simp [h]⟩

/-- Settles O43: the first command writes its pair before it ends, and the READ answers the pair it finds. -/
theorem readAfterChangeSeesIt : Obligations.ReadAfterChangeSeesIt := by
  intro s k b r rd hk hb hr hrd hi
  obtain ⟨t, hrun, hblock, -⟩ := run_commands_block [r, rd] [] s k b hi hk
  obtain ⟨a, g, htake, hpair⟩ := Block.take_nextOrJump hr hb
  have hread : b.takeAll [r, rd] = ((b.write g).respond a).respond (Response.pair g) := by
    rw [Block.takeAll_cons, Block.takeAll_cons, Block.takeAll_nil, htake]
    exact Block.take_read hrd hb
  rw [hread] at hblock
  exact ⟨t, _, a, g, hrun, hblock, List.append_assoc .., rfl, hpair⟩

end Machine

end Sys2Proof
end
